-- ==== Sys2Proof/Word.lean ====
section
/-! DEFINITION. The values the engine holds: bytes, bus words, 16-byte blocks, the key schedule (spec 00_scope.md R12, R14). -/

namespace Sys2Proof

/-- An 8-bit unsigned value 0..255 (R12); also an element of GF(2^8) (41_gf.md R88). -/
abbrev Byte := BitVec 8

/-- A 32-bit bus word (20_memory.md R50), and the format of every command (30_encoding.md R69). -/
abbrev Word := BitVec 32

/-- Sixteen bytes: KEY, IV, BLK and one block of BUF (00_scope.md R2). -/
abbrev Block := Vector Byte 16

/-- The four bytes of one key schedule word (43_keysched.md R111). -/
abbrev Quad := Vector Byte 4

/-- The 176-byte expanded key schedule (10_state.md R37). -/
abbrev Schedule := Vector Byte 176

/-- A round index 0..10 (42_round.md R95). -/
abbrev RoundIndex := Fin 11

/-- STATUS.ERR, a 4-bit field; all sixteen values are admitted (60_exceptions.md R143). -/
abbrev ErrCode := BitVec 4

end Sys2Proof
end

