-- ==== Sys2Proof/Syntax.lean ====
section
/-! DEFINITION. The commands of 30_encoding.md R72, one constructor per row of the opcode table, and the outcomes of decoding. -/

namespace Sys2Proof

/-- A command (30_encoding.md R72). Data operands are implicit registers (R71); two commands carry a field. -/
inductive Instr where
  | nop
  | keyexp
  | encb
  | decb
  | cbcenc
  /-- `u` is the IV-update flag U (R70); `true` is CBCDEC.U. -/
  | cbcdec (u : Bool)
  | pad
  | unpad
  | xtime
  | gmul
  | subb
  | invsubb
  | shrow
  | invshrow
  | mixcol
  | invmixcol
  /-- `rnd` is the 4-bit field RND (R70); 0..10 are legal (R73). -/
  | addrk (rnd : BitVec 4)
  deriving DecidableEq, Repr

/-- Why a word is no command, one name for each test of Decode (30_encoding.md R74). -/
inductive IllegalWord where
  /-- A bit of RSV0 or RSV1 is set. -/
  | reservedBits
  /-- OP is 0x11 or more. -/
  | unassignedOp
  /-- RND is nonzero and OP is not ADDRK. -/
  | rndOnOtherOp
  /-- OP is ADDRK and RND is above 10. -/
  | roundOutOfRange
  /-- U is 1 and OP is not CBCDEC. -/
  | uOnOtherOp
  deriving DecidableEq, Repr

/-- The outcome of Decode (R74). -/
inductive Decoded where
  | legal (i : Instr)
  | illegal (why : IllegalWord)
  deriving DecidableEq, Repr

/-- The command of a legal word. -/
def Decoded.instr? : Decoded → Option Instr
  | .legal i => some i
  | .illegal _ => none

end Sys2Proof
end

