-- ==== Sys2Proof/WellFormed.lean ====
section
/-! DEFINITION. Which commands an encoding exists for (30_encoding.md R73). -/

namespace Sys2Proof

/-- 30_encoding.md R73: the one condition on a field is RND ≤ 10. -/
def Instr.wf : Instr → Bool
  | .nop => true
  | .keyexp => true
  | .encb => true
  | .decb => true
  | .cbcenc => true
  | .cbcdec _ => true
  | .pad => true
  | .unpad => true
  | .xtime => true
  | .gmul => true
  | .subb => true
  | .invsubb => true
  | .shrow => true
  | .invshrow => true
  | .mixcol => true
  | .invmixcol => true
  | .addrk rnd => rnd.toNat ≤ 10

end Sys2Proof
end

