-- ==== Sys2Proof/Decode.lean ====
section
/-! DEFINITION. Decode and encode of the command word (30_encoding.md R70 to R78). -/

namespace Sys2Proof

/-- OP, bits 4:0 (R70). -/
def opField (w : Word) : BitVec 5 := w.extractLsb' 0 5

/-- RSV0, bits 7:5 (R70). -/
def rsv0Field (w : Word) : BitVec 3 := w.extractLsb' 5 3

/-- RND, bits 11:8 (R70). -/
def rndField (w : Word) : BitVec 4 := w.extractLsb' 8 4

/-- U, bit 12 (R70). -/
def uField (w : Word) : Bool := w.getLsbD 12

/-- RSV1, bits 31:13 (R70). -/
def rsv1Field (w : Word) : BitVec 19 := w.extractLsb' 13 19

/-- The opcode map (R72): the command of an OP value, with the fields it uses. -/
def instrOfOp (op : BitVec 5) (rnd : BitVec 4) (u : Bool) : Option Instr :=
  match op.toNat with
  | 0x00 => some .nop
  | 0x01 => some .keyexp
  | 0x02 => some .encb
  | 0x03 => some .decb
  | 0x04 => some .cbcenc
  | 0x05 => some (.cbcdec u)
  | 0x06 => some .pad
  | 0x07 => some .unpad
  | 0x08 => some .xtime
  | 0x09 => some .gmul
  | 0x0A => some .subb
  | 0x0B => some .invsubb
  | 0x0C => some .shrow
  | 0x0D => some .invshrow
  | 0x0E => some .mixcol
  | 0x0F => some .invmixcol
  | 0x10 => some (.addrk rnd)
  | _ => none

/-- Decode (R74), its tests in the spec's order. Total on all 2^32 words. -/
def decode (w : Word) : Decoded :=
  if rsv0Field w ≠ 0 ∨ rsv1Field w ≠ 0 then .illegal .reservedBits
  else match instrOfOp (opField w) (rndField w) (uField w) with
    | none => .illegal .unassignedOp
    | some i =>
      if opField w ≠ 0x10 ∧ rndField w ≠ 0 then .illegal .rndOnOtherOp
      else if opField w = 0x10 ∧ 10 < (rndField w).toNat then .illegal .roundOutOfRange
      else if opField w ≠ 0x05 ∧ uField w = true then .illegal .uOnOtherOp
      else .legal i

/-- The command word of three field values: the pattern string of R70. -/
def commandWord (op : BitVec 5) (rnd : BitVec 4) (u : Bool) : Word :=
  (0 : BitVec 19) ++ BitVec.ofBool u ++ rnd ++ (0 : BitVec 3) ++ op

/-- The command word of a command (R78). -/
def encode : Instr → Word
  | .nop => commandWord 0x00 0 false
  | .keyexp => commandWord 0x01 0 false
  | .encb => commandWord 0x02 0 false
  | .decb => commandWord 0x03 0 false
  | .cbcenc => commandWord 0x04 0 false
  | .cbcdec u => commandWord 0x05 0 u
  | .pad => commandWord 0x06 0 false
  | .unpad => commandWord 0x07 0 false
  | .xtime => commandWord 0x08 0 false
  | .gmul => commandWord 0x09 0 false
  | .subb => commandWord 0x0A 0 false
  | .invsubb => commandWord 0x0B 0 false
  | .shrow => commandWord 0x0C 0 false
  | .invshrow => commandWord 0x0D 0 false
  | .mixcol => commandWord 0x0E 0 false
  | .invmixcol => commandWord 0x0F 0 false
  | .addrk rnd => commandWord 0x10 rnd false

/-- The bits `w` of an instruction `nbits` long as the one word written to CMD (R69); bits above are 0. -/
def wordOfTable (nbits w : Nat) : Word := BitVec.ofNat 32 (w % 2 ^ nbits)

/-- What the decoder reads from an opcode-table word. -/
def decodeTableWord (nbits w : Nat) : Option Instr := (decode (wordOfTable nbits w)).instr?

end Sys2Proof
end

