-- ==== Sys2Proof/Config.lean ====
section
/-! DEFINITION. The parameters of an instance (00_scope.md R10, R11) and the values the spec leaves free. -/

namespace Sys2Proof

/-- The OPEN parameters of 00_scope.md R10 that an instance fixes. -/
structure Config where
  /-- ENGINE_BASE, the platform address of aperture offset 0 (20_memory.md R47). -/
  engineBase : Nat
  /-- BUF_SIZE, the number of bytes of BUF (R10, R11). -/
  bufSize : Nat
  deriving DecidableEq, Repr

/-- R11: BUF_SIZE is a multiple of 16 and lies in [16, 61440]. -/
abbrev Config.wf (c : Config) : Prop :=
  16 ≤ c.bufSize ∧ c.bufSize ≤ 61440 ∧ c.bufSize % 16 = 0

/-- The instance of `State.reset`. BUF_SIZE is the spec's default (R10).
ENGINE_BASE is OPEN in the spec: 0 is a DESIGN CHOICE (log 2). -/
def Config.default : Config := { engineBase := 0, bufSize := 4096 }

/-- FREE VALUE (70_reset_and_hazards.md R164; U1): what byte `i` of BUF holds after the reset numbered `draw`.
No body: nothing can be proved of its values (log 1). -/
opaque Config.freeBufByte (draw i : Nat) : Byte

/-- FREE VALUE (40_tables.md R86; U12): RCON[0], which no rule reads (log 11). -/
opaque Config.rconZero : Byte

end Sys2Proof
end

