-- ==== Sys2Proof/Machine/State.lean ====
section
/-! DEFINITION. The whole state: the engine's architectural state (10_state.md R16), the instance's parameters (00_scope.md R10), and the environment's turns still to come (20_memory.md R62). -/

namespace Sys2Proof.Machine

/-- One host bus transaction (20_memory.md R47, R50): its width in bits and its platform address.
A write carries 32 data bits; an access of another width is not decoded, so its data play no part (log 18). -/
inductive Access where
  | read (width addr : Nat)
  | write (width addr : Nat) (v : Word)
  deriving DecidableEq, Repr

/-- What happens next in the single total order of 20_memory.md R62. -/
inductive Turn where
  /-- The host makes one access. -/
  | host (a : Access)
  /-- The engine takes its completion step if it is enabled (47_system.md R135). -/
  | engine
  /-- The platform asserts reset (70_reset_and_hazards.md R163). -/
  | reset
  deriving DecidableEq, Repr

/-- The engine's answer to one host access (20_memory.md R52, R56, R57). -/
inductive Response where
  /-- A legal read returned `v`. -/
  | readData (v : Word)
  /-- A legal write was taken (its effect may be none). -/
  | writeDone
  /-- `raise BusError(off)` on a read, with the data value the host sees (R52). -/
  | readError (off : Nat) (v : Word)
  /-- `raise BusError(off)` on a write (R52). -/
  | writeError (off : Nat)
  /-- The platform address lies outside the aperture: the engine answers nothing (R47). -/
  | unselected
  deriving DecidableEq, Repr

/-- BUF (10_state.md R38). `cells` lists the bytes written since the last reset, by index; an unlisted byte holds
the free value of the draw in force (70_reset_and_hazards.md R164; log 1). -/
structure Memory where
  /-- The model's own field: which draw of `Config.freeBufByte` the last reset made. -/
  draw : Nat
  cells : List Host.Cell
  deriving DecidableEq, Repr

/-- The canonical form: indexes strictly rising, all below BUF_SIZE. An unlisted byte has no stored value,
so no entry equals one. -/
abbrev Memory.wf (size : Nat) (m : Memory) : Prop :=
  m.cells.Pairwise (fun a b => a.1 < b.1) ∧ ∀ c ∈ m.cells, c.1 < size

/-- The machine. Fields `ie` to `mem` are the architectural state of 10_state.md R16. -/
structure State where
  /-- The instance's parameters; no step changes them. -/
  cfg : Config
  /-- CTRL.IE (R19). -/
  ie : Bool
  /-- STATUS.BUSY (R20). -/
  busy : Bool
  /-- STATUS.DONE (R21). -/
  done : Bool
  /-- STATUS.KEY_VALID (R22). -/
  keyValid : Bool
  /-- STATUS.OVR (R23). -/
  ovr : Bool
  /-- STATUS.ERR (R24). -/
  err : ErrCode
  /-- PENDING, the command latch, which may be empty (R28). -/
  pending : Option Word
  /-- LEN (R29). -/
  len : Word
  /-- GF_A (R30). -/
  gfA : Byte
  /-- GF_B (R31). -/
  gfB : Byte
  /-- GF_R (R32). -/
  gfR : Byte
  /-- KEY[0..16) (R33). -/
  key : Block
  /-- IV[0..16) (R35). -/
  iv : Block
  /-- BLK[0..16) (R36). -/
  blk : Block
  /-- RK[0..176) (R37). -/
  rk : Schedule
  /-- BUF[0..BUF_SIZE) (R38). -/
  mem : Memory
  /-- The model's own field: the turns still to come, next one first (log 3). -/
  agenda : List Turn
  /-- The model's own field: the answer to the latest host access (log 4). -/
  resp : Option Response
  deriving DecidableEq, Repr

/-- Why a step stops. -/
inductive Fault where
  /-- Raised by the completion step when BUSY = 1 and PENDING is empty, a state that 10_state.md R43 rules out:
  the spec gives `Execute(empty)` no meaning. Safe (log 7). -/
  | pendingEmpty
  deriving DecidableEq, Repr

/-- Why a step is refused. -/
inductive Refusal where
  /-- Raised by a dispatch arm whose instruction has no meaning yet (none here). Safe. -/
  | notModelled (mnemonic : String)
  /-- Raised by `step` on an instance that 00_scope.md R11 says must be refused. Safe (log 8). -/
  | illFormedConfig
  deriving DecidableEq, Repr

/-- The machine right after reset (70_reset_and_hazards.md R163, R165), with nothing listed in BUF.
`cfg.engineBase`, `mem.draw`, `agenda` and `resp` are DESIGN CHOICES (log 2, 1, 3, 4). -/
def State.reset : State where
  cfg := Config.default
  ie := false
  busy := false
  done := false
  keyValid := false
  ovr := false
  err := 0
  pending := none
  len := 0
  gfA := 0
  gfB := 0
  gfR := 0
  key := Vector.replicate 16 0
  iv := Vector.replicate 16 0
  blk := Vector.replicate 16 0
  rk := Vector.replicate 176 0
  mem := { draw := 0, cells := [] }
  agenda := []
  resp := none

end Sys2Proof.Machine
end

