-- ==== Sys2Proof/Machine/Flags.lean ====
section
/-! DEFINITION. The STATUS register, the error codes and the interrupt line (10_state.md R20 to R26, R42; 60_exceptions.md R142, R153). The engine has no arithmetic flags (10_state.md R46). -/

namespace Sys2Proof.Machine

/-- 60_exceptions.md R142, code 0: NONE, success. -/
def errNone : ErrCode := 0

/-- R142, code 1: INVALID_KEY_LENGTH, never produced (R143). -/
def errInvalidKeyLength : ErrCode := 1

/-- R142, code 2: INVALID_IV_LENGTH, never produced (R143). -/
def errInvalidIvLength : ErrCode := 2

/-- R142, code 3: BUFFER_LENGTH (R144). -/
def errBufferLength : ErrCode := 3

/-- R142, code 4: INVALID_PADDING (R145). -/
def errInvalidPadding : ErrCode := 4

/-- R142, code 5: KEY_NOT_EXPANDED (R146). -/
def errKeyNotExpanded : ErrCode := 5

/-- R142, code 6: CAPACITY (R147). -/
def errCapacity : ErrCode := 6

/-- R142, code 7: ILLEGAL_COMMAND (R148). -/
def errIllegalCommand : ErrCode := 7

/-- A flag as a word, bit 0. -/
def flagWord (b : Bool) : Word := (BitVec.ofBool b).setWidth 32

/-- What a read of STATUS returns (10_state.md R25). -/
def statusWord (s : State) : Word :=
  s.err.setWidth 32 <<< 8 ||| flagWord s.ovr <<< 3 ||| flagWord s.keyValid <<< 2
    ||| flagWord s.done <<< 1 ||| flagWord s.busy

/-- A write of `v` to STATUS (R26): write 1 to clear DONE and OVR. The write of DONE is the acknowledgement,
the engine's only "return from trap" (60_exceptions.md R155). -/
def writeStatus (v : Word) (s : State) : State :=
  { s with done := s.done && !v.getLsbD 1, ovr := s.ovr && !v.getLsbD 3 }

/-- A write of `v` to CTRL (R19): only bit 0, IE, is kept. -/
def writeCtrl (v : Word) (s : State) : State := { s with ie := v.getLsbD 0 }

/-- The interrupt output (R42, 60_exceptions.md R153). -/
def irq (s : State) : Bool := s.ie && s.done

end Sys2Proof.Machine
end

