-- ==== Sys2Proof/Machine/Ops.lean ====
section
/-! DEFINITION. The named operations over BUF and the registers, the issue and the completion of a command (47_system.md R133, R135; 60_exceptions.md R149, R154), and the reset turn (70_reset_and_hazards.md R163). -/

namespace Sys2Proof.Machine

/-! ### BUF, one byte at a time (10_state.md R38) -/

/-- The stored byte of index `i`, if one is listed. -/
def findCell : List Host.Cell → Nat → Option Byte
  | [], _ => none
  | (a, v) :: rest, i => if a = i then some v else findCell rest i

/-- Stores `v` at index `i`, keeping the indexes strictly rising. -/
def insertCell : List Host.Cell → Nat → Byte → List Host.Cell
  | [], i, v => [(i, v)]
  | (a, w) :: rest, i, v =>
    if i < a then (i, v) :: (a, w) :: rest
    else if i = a then (i, v) :: rest
    else (a, w) :: insertCell rest i v

/-- BUF[i]. A byte nothing has written since reset holds its free value (70_reset_and_hazards.md R164).
There is no byte at or beyond BUF_SIZE: 0, as the reserved offsets there read (10_state.md R39). -/
def Memory.read (m : Memory) (size i : Nat) : Byte :=
  if i < size then (findCell m.cells i).getD (Config.freeBufByte m.draw i) else 0

/-- BUF[i] <- v. A write at or beyond BUF_SIZE is ignored (10_state.md R39). -/
def Memory.write (m : Memory) (size i : Nat) (v : Byte) : Memory :=
  if i < size then { m with cells := insertCell m.cells i v } else m

/-- BUF[k], BUF[k+1], … <- vs, in the order written (00_scope.md R13). -/
def Memory.writeBytes (m : Memory) (size : Nat) : Nat → List Byte → Memory
  | _, [] => m
  | k, v :: vs => Memory.writeBytes (m.write size k v) size (k + 1) vs

/-- The block BUF[16i .. 16i+16). -/
def Memory.readBlock (m : Memory) (size i : Nat) : Block :=
  Vector.ofFn fun j => m.read size (16 * i + j.val)

/-- BUF[16i .. 16i+16) <- b. -/
def Memory.writeBlock (m : Memory) (size i : Nat) (b : Block) : Memory :=
  m.writeBytes size (16 * i) b.toList

/-! ### Byte lanes (00_scope.md R15, 20_memory.md R53) -/

/-- `Word`: four bytes, the first in bits 31:24. -/
def packWord (b0 b1 b2 b3 : Byte) : Word := b0 ++ b1 ++ b2 ++ b3

/-- Byte lane `j` of a word, lane 0 in bits 31:24. -/
def laneOf (v : Word) (j : Nat) : Byte := v.extractLsb' (24 - 8 * j) 8

/-- `Word(a, 4n)` of a 16-byte register. -/
def blockWord (a : Block) (n : Fin 4) : Word :=
  packWord a[4 * n.val] a[4 * n.val + 1] a[4 * n.val + 2] a[4 * n.val + 3]

/-- `SetWord(a, 4n, v)` of a 16-byte register. -/
def setBlockWord (a : Block) (n : Fin 4) (v : Word) : Block :=
  (((a.set (4 * n.val) (laneOf v 0)).set (4 * n.val + 1) (laneOf v 1)).set (4 * n.val + 2) (laneOf v 2)).set
    (4 * n.val + 3) (laneOf v 3)

/-- `Word(RK, 4i)`, schedule word i (10_state.md R37). -/
def scheduleWord (rk : Schedule) (i : Fin 44) : Word :=
  packWord rk[4 * i.val] rk[4 * i.val + 1] rk[4 * i.val + 2] rk[4 * i.val + 3]

/-- `Word(BUF, k)`. -/
def Memory.readWord (m : Memory) (size k : Nat) : Word :=
  packWord (m.read size k) (m.read size (k + 1)) (m.read size (k + 2)) (m.read size (k + 3))

/-- `SetWord(BUF, k, v)`. -/
def Memory.writeWord (m : Memory) (size k : Nat) (v : Word) : Memory :=
  m.writeBytes size k [laneOf v 0, laneOf v 1, laneOf v 2, laneOf v 3]

/-- `a ^ b` on two blocks, byte by byte (00_scope.md R13). -/
def xorBlock (a b : Block) : Block := Vector.ofFn fun i => a[i] ^^^ b[i]

/-! ### Register updates the commands make -/

/-- GF_R <- r (10_state.md R32). -/
def setGfR (r : Byte) (s : State) : State := { s with gfR := r }

/-- BLK <- b (R36). -/
def setBlk (b : Block) (s : State) : State := { s with blk := b }

/-- RK <- w; STATUS.KEY_VALID <- 1 (43_keysched.md R113). -/
def setSchedule (w : Schedule) (s : State) : State := { s with rk := w, keyValid := true }

/-- LEN <- n (10_state.md R29). -/
def setLen (n : Nat) (s : State) : State := { s with len := BitVec.ofNat 32 n }

/-- IV <- b (R35). -/
def setIv (b : Block) (s : State) : State := { s with iv := b }

/-- BUF <- m (R38). -/
def setMem (m : Memory) (s : State) : State := { s with mem := m }

/-- STATUS.OVR <- 1 (R23). -/
def setOvr (s : State) : State := { s with ovr := true }

/-! ### The life of a command -/

/-- An accepted write of `v` to CMD (47_system.md R133). -/
def issue (v : Word) (s : State) : State :=
  { s with pending := some v, busy := true, done := false, err := errNone }

/-- What every completion writes (47_system.md R135; 60_exceptions.md R154): the outcome code, BUSY, DONE, PENDING. -/
def finish (code : ErrCode) (s : State) : State :=
  { s with err := code, busy := false, done := true, pending := none }

/-- A command's success: the writes already made in `s` stay, ERR is NONE (60_exceptions.md R149). -/
def retire (s : State) : Host.Outcome State Fault Refusal := .next (finish errNone s)

/-- `raise CmdError(code)` (00_scope.md R15): the engine's exception entry (60_exceptions.md R149, R154).
`s` is the state at the completion step, before any write of the command. -/
def raiseError (code : ErrCode) (s : State) : Host.Outcome State Fault Refusal := .next (finish code s)

/-- The check of every command that uses the schedule (60_exceptions.md R146): the error it finds, if any. -/
def keyError (s : State) : Option ErrCode := if s.keyValid then none else some errKeyNotExpanded

/-- The reset turn (70_reset_and_hazards.md R163): every element at its reset value, PENDING discarded, and a new
draw of BUF's contents (R164). The parameters and the environment's own fields are not the engine's. -/
def resetEngine (s : State) : State :=
  { State.reset with
    cfg := s.cfg
    mem := { draw := s.mem.draw + 1, cells := [] }
    agenda := s.agenda
    resp := s.resp }

end Sys2Proof.Machine
end

