-- ==== Sys2Proof/Machine/Gf.lean ====
section
/-! DEFINITION. GF(2^8): xtime, gmul, RCON, and the commands XTIME and GMUL (41_gf.md; 40_tables.md R85). -/

namespace Sys2Proof.Machine

/-- xtime (41_gf.md R89). -/
def xtime (a : Byte) : Byte := if a.getLsbD 7 then (a <<< 1) ^^^ 0x1B else a <<< 1

/-- The loop of gmul (R90) over the `n` bits of b from bit `k` up: `a` has been doubled k times, `p` is the sum so far. -/
def gmulLoop : (n k : Nat) → (a b p : Byte) → Byte
  | 0, _, _, _, p => p
  | n + 1, k, a, b, p => gmulLoop n (k + 1) (xtime a) b (if b.getLsbD k then p ^^^ a else p)

/-- gmul (R90): all 8 bits of b, least significant first. -/
def gmul (a b : Byte) : Byte := gmulLoop 8 0 a b 0

/-- RCON (40_tables.md R85): RCON[1] = 1 and RCON[r+1] = xtime(RCON[r]). RCON[0] is free and never read (R86; log 11). -/
def rcon : Nat → Byte
  | 0 => Config.rconZero
  | 1 => 0x01
  | r + 2 => xtime (rcon (r + 1))

/-- XTIME (41_gf.md R92). -/
def execXtime (s : State) : Host.Outcome State Fault Refusal := retire (setGfR (xtime s.gfA) s)

/-- GMUL (R93). -/
def execGmul (s : State) : Host.Outcome State Fault Refusal := retire (setGfR (gmul s.gfA s.gfB) s)

end Sys2Proof.Machine
end

