-- ==== Sys2Proof/Machine/Round.lean ====
section
/-! DEFINITION. The round transforms on a 16-byte state and the seven commands that apply one to BLK (42_round.md). -/

namespace Sys2Proof.Machine

/-- The state byte s[r][c] = a[r + 4c] (42_round.md R94); `r` and `c` are taken mod 4. -/
def stateByte (a : Block) (r c : Nat) : Byte := a[r % 4 + 4 * (c % 4)]'(by omega)

/-- The block whose byte in row r, column c is `f r c` (R94). -/
def ofStateBytes (f : Nat → Nat → Byte) : Block := Vector.ofFn fun i => f (i.val % 4) (i.val / 4)

/-- AddRoundKey (R95). -/
def addRoundKey (s : Block) (rk : Schedule) (rnd : RoundIndex) : Block :=
  Vector.ofFn fun i => s[i] ^^^ rk[16 * rnd.val + i.val]

/-- SubBytes (R96). -/
def subBytes (s : Block) : Block := Vector.ofFn fun i => sbox s[i]

/-- InvSubBytes (R97). -/
def invSubBytes (s : Block) : Block := Vector.ofFn fun i => invSbox s[i]

/-- ShiftRows (R98). -/
def shiftRows (s : Block) : Block := ofStateBytes fun r c => stateByte s r (c + r)

/-- InvShiftRows (R99); c - r mod 4 is taken as c + 4 - r mod 4, r being at most 3. -/
def invShiftRows (s : Block) : Block := ofStateBytes fun r c => stateByte s r (c + 4 - r)

/-- Applies `f` to every column: `f r a0 a1 a2 a3` is row r of the new column. -/
def mapColumns (f : Nat → Byte → Byte → Byte → Byte → Byte) (s : Block) : Block :=
  ofStateBytes fun r c => f r (stateByte s 0 c) (stateByte s 1 c) (stateByte s 2 c) (stateByte s 3 c)

/-- One column of MixColumns (R100). -/
def mixColumn (r : Nat) (a0 a1 a2 a3 : Byte) : Byte :=
  match r with
  | 0 => gmul 2 a0 ^^^ gmul 3 a1 ^^^ a2 ^^^ a3
  | 1 => a0 ^^^ gmul 2 a1 ^^^ gmul 3 a2 ^^^ a3
  | 2 => a0 ^^^ a1 ^^^ gmul 2 a2 ^^^ gmul 3 a3
  | _ => gmul 3 a0 ^^^ a1 ^^^ a2 ^^^ gmul 2 a3

/-- One column of InvMixColumns (R101). -/
def invMixColumn (r : Nat) (a0 a1 a2 a3 : Byte) : Byte :=
  match r with
  | 0 => gmul 14 a0 ^^^ gmul 11 a1 ^^^ gmul 13 a2 ^^^ gmul 9 a3
  | 1 => gmul 9 a0 ^^^ gmul 14 a1 ^^^ gmul 11 a2 ^^^ gmul 13 a3
  | 2 => gmul 13 a0 ^^^ gmul 9 a1 ^^^ gmul 14 a2 ^^^ gmul 11 a3
  | _ => gmul 11 a0 ^^^ gmul 13 a1 ^^^ gmul 9 a2 ^^^ gmul 14 a3

/-- MixColumns (R100). -/
def mixColumns (s : Block) : Block := mapColumns mixColumn s

/-- InvMixColumns (R101). -/
def invMixColumns (s : Block) : Block := mapColumns invMixColumn s

/-- SUBB (R104). -/
def execSubb (s : State) : Host.Outcome State Fault Refusal := retire (setBlk (subBytes s.blk) s)

/-- INVSUBB (R105). -/
def execInvsubb (s : State) : Host.Outcome State Fault Refusal := retire (setBlk (invSubBytes s.blk) s)

/-- SHROW (R106). -/
def execShrow (s : State) : Host.Outcome State Fault Refusal := retire (setBlk (shiftRows s.blk) s)

/-- INVSHROW (R107). -/
def execInvshrow (s : State) : Host.Outcome State Fault Refusal := retire (setBlk (invShiftRows s.blk) s)

/-- MIXCOL (R108). -/
def execMixcol (s : State) : Host.Outcome State Fault Refusal := retire (setBlk (mixColumns s.blk) s)

/-- INVMIXCOL (R109). -/
def execInvmixcol (s : State) : Host.Outcome State Fault Refusal := retire (setBlk (invMixColumns s.blk) s)

/-- ADDRK (R110). RND above 10 never comes from Decode; as there, it is ILLEGAL_COMMAND, checked first (log 13). -/
def execAddrk (rnd : BitVec 4) (s : State) : Host.Outcome State Fault Refusal :=
  if h : rnd.toNat ≤ 10 then
    match keyError s with
    | some c => raiseError c s
    | none => retire (setBlk (addRoundKey s.blk s.rk ⟨rnd.toNat, by omega⟩) s)
  else raiseError errIllegalCommand s

end Sys2Proof.Machine
end

