-- ==== Sys2Proof/Machine/Cipher.lean ====
section
/-! DEFINITION. The block cipher and its inverse, ENCB and DECB (44_cipher.md). -/

namespace Sys2Proof.Machine

/-- Rounds 1..9, in increasing order (44_cipher.md R115). -/
def middleRounds : List RoundIndex := [1, 2, 3, 4, 5, 6, 7, 8, 9]

/-- One of rounds 1..9 of Cipher (R115). -/
def cipherRound (rk : Schedule) (s : Block) (rnd : RoundIndex) : Block :=
  addRoundKey (mixColumns (shiftRows (subBytes s))) rk rnd

/-- Cipher (R115). -/
def cipher (b : Block) (rk : Schedule) : Block :=
  addRoundKey (shiftRows (subBytes (middleRounds.foldl (cipherRound rk) (addRoundKey b rk 0)))) rk 10

/-- One of rounds 9..1 of InvCipher (R116). -/
def invCipherRound (rk : Schedule) (s : Block) (rnd : RoundIndex) : Block :=
  invMixColumns (addRoundKey (invSubBytes (invShiftRows s)) rk rnd)

/-- InvCipher (R116). -/
def invCipher (b : Block) (rk : Schedule) : Block :=
  addRoundKey (invSubBytes (invShiftRows
    (middleRounds.reverse.foldl (invCipherRound rk) (addRoundKey b rk 10)))) rk 0

/-- ENCB (R119). -/
def execEncb (s : State) : Host.Outcome State Fault Refusal :=
  match keyError s with
  | some c => raiseError c s
  | none => retire (setBlk (cipher s.blk s.rk) s)

/-- DECB (R120). -/
def execDecb (s : State) : Host.Outcome State Fault Refusal :=
  match keyError s with
  | some c => raiseError c s
  | none => retire (setBlk (invCipher s.blk s.rk) s)

end Sys2Proof.Machine
end

