-- ==== Sys2Proof/Machine/Cbc.lean ====
section
/-! DEFINITION. The CBC block chainer, CBCENC and CBCDEC (45_cbc.md). -/

namespace Sys2Proof.Machine

/-- A valid CBC length (45_cbc.md R121). -/
def cbcLengthValid (size l : Nat) : Bool := 0 < l && l % 16 == 0 && l ≤ size

/-- The loop of CbcEncrypt (R122) over `n` blocks from block `i` up. -/
def cbcEncryptLoop (size : Nat) (rk : Schedule) : (n i : Nat) → Memory → Block → Memory × Block
  | 0, _, m, cv => (m, cv)
  | n + 1, i, m, cv =>
    let b := cipher (xorBlock (m.readBlock size i) cv) rk
    cbcEncryptLoop size rk n (i + 1) (m.writeBlock size i b) b

/-- CbcEncrypt (R122): the new BUF and the final chaining value. -/
def cbcEncrypt (size l : Nat) (m : Memory) (rk : Schedule) (iv : Block) : Memory × Block :=
  cbcEncryptLoop size rk (l / 16) 0 m iv

/-- The loop of CbcDecrypt (R123); the ciphertext block is read before it is overwritten. -/
def cbcDecryptLoop (size : Nat) (rk : Schedule) : (n i : Nat) → Memory → Block → Memory × Block
  | 0, _, m, cv => (m, cv)
  | n + 1, i, m, cv =>
    let nxt := m.readBlock size i
    cbcDecryptLoop size rk n (i + 1) (m.writeBlock size i (xorBlock (invCipher nxt rk) cv)) nxt

/-- CbcDecrypt (R123). -/
def cbcDecrypt (size l : Nat) (m : Memory) (rk : Schedule) (iv : Block) : Memory × Block :=
  cbcDecryptLoop size rk (l / 16) 0 m iv

/-- The checks CBCENC and CBCDEC share, in the order of 60_exceptions.md R151: the error they find, if any. -/
def cbcError (s : State) : Option ErrCode :=
  match keyError s with
  | some c => some c
  | none => if cbcLengthValid s.cfg.bufSize s.len.toNat then none else some errBufferLength

/-- CBCENC (R126). -/
def execCbcenc (s : State) : Host.Outcome State Fault Refusal :=
  match cbcError s with
  | some c => raiseError c s
  | none =>
    let r := cbcEncrypt s.cfg.bufSize s.len.toNat s.mem s.rk s.iv
    retire (setIv r.2 (setMem r.1 s))

/-- CBCDEC and CBCDEC.U (R127). -/
def execCbcdec (u : Bool) (s : State) : Host.Outcome State Fault Refusal :=
  match cbcError s with
  | some c => raiseError c s
  | none =>
    let r := cbcDecrypt s.cfg.bufSize s.len.toNat s.mem s.rk s.iv
    retire (if u then setIv r.2 (setMem r.1 s) else setMem r.1 s)

end Sys2Proof.Machine
end

