-- ==== Sys2Proof/Machine/KeySchedule.lean ====
section
/-! DEFINITION. The key schedule expander and KEYEXP (43_keysched.md). -/

namespace Sys2Proof.Machine

/-- Steps (a) RotWord, (b) SubWord, (c) the round constant on the first byte (43_keysched.md R111). -/
def scheduleCore (r : Nat) (t : Quad) : Quad :=
  #v[sbox t[1] ^^^ rcon r, sbox t[2], sbox t[3], sbox t[0]]

/-- `a ^ b` on two schedule words, byte by byte. -/
def xorQuad (a b : Quad) : Quad := Vector.ofFn fun j => a[j] ^^^ b[j]

/-- Schedule word i from words i-4 and i-1, for i ≥ 4 (R111). -/
def nextQuad (i : Nat) (w4 w1 : Quad) : Quad :=
  xorQuad w4 (if i % 4 = 0 then scheduleCore (i / 4) w1 else w1)

/-- Schedule words i, i+1, …, `n` of them, from the four words before word i. -/
def expandQuads : (n i : Nat) → (a b c d : Quad) → List Quad
  | 0, _, _, _, _, _ => []
  | n + 1, i, a, b, c, d =>
    let e := nextQuad i a d
    e :: expandQuads n (i + 1) b c d e

/-- Word i of the key, i = 0..3 (R111). -/
def keyQuad (key : Block) (i : Fin 4) : Quad := Vector.ofFn fun j => key[4 * i.val + j.val]

/-- Words 0..43 of the schedule (R111). -/
def scheduleQuads (key : Block) : List Quad :=
  [keyQuad key 0, keyQuad key 1, keyQuad key 2, keyQuad key 3] ++
    expandQuads 40 4 (keyQuad key 0) (keyQuad key 1) (keyQuad key 2) (keyQuad key 3)

/-- KeyExpansion (R111): byte 4i+j is w[i][j]. The list has 44 words, so the default word is never taken. -/
def keyExpansion (key : Block) : Schedule :=
  let w := scheduleQuads key
  Vector.ofFn fun k => (w.getD (k.val / 4) (Vector.replicate 4 0))[k.val % 4]'(by omega)

/-- KEYEXP (R113). -/
def execKeyexp (s : State) : Host.Outcome State Fault Refusal := retire (setSchedule (keyExpansion s.key) s)

end Sys2Proof.Machine
end

