-- ==== Sys2Proof/Machine/Pkcs7.lean ====
section
/-! DEFINITION. The PKCS#7 padder and unpadder, PAD and UNPAD (46_pkcs7.md). -/

namespace Sys2Proof.Machine

/-- PadLen (46_pkcs7.md R129); the block size is fixed at 16 (R128). -/
def padLen (l : Nat) : Nat := 16 - l % 16

/-- PAD (R130). -/
def execPad (s : State) : Host.Outcome State Fault Refusal :=
  let l := s.len.toNat
  let p := padLen l
  if s.cfg.bufSize < l + p then raiseError errCapacity s
  else retire (setLen (l + p)
    (setMem (s.mem.writeBytes s.cfg.bufSize l (List.replicate p (BitVec.ofNat 8 p))) s))

/-- Do the `p` bytes of BUF from index `k` all hold the value `p` (the full-byte check of R131)? -/
def allPadBytes (m : Memory) (size k p : Nat) : Bool :=
  (List.range p).all fun j => m.read size (k + j) == BitVec.ofNat 8 p

/-- UNPAD (R131), its checks in the spec's order. -/
def execUnpad (s : State) : Host.Outcome State Fault Refusal :=
  let size := s.cfg.bufSize
  let l := s.len.toNat
  if size < l then raiseError errBufferLength s
  else if l = 0 then raiseError errInvalidPadding s
  else
    let p := (s.mem.read size (l - 1)).toNat
    if p = 0 ∨ 16 < p ∨ l < p then raiseError errInvalidPadding s
    else if allPadBytes s.mem size (l - p) p then
      retire (setLen (l - p) (setMem (s.mem.writeBytes size (l - p) (List.replicate p 0)) s))
    else raiseError errInvalidPadding s

end Sys2Proof.Machine
end

