-- ==== Sys2Proof/Machine/System.lean ====
section
/-! DEFINITION. The system command NOP (47_system.md R139). -/

namespace Sys2Proof.Machine

/-- NOP (R139): no state change beyond the completion step's. -/
def execNop (s : State) : Host.Outcome State Fault Refusal := retire s

end Sys2Proof.Machine
end

