-- ==== Sys2Proof/Machine/Dispatch.lean ====
section
/-! DEFINITION. One arm per command: its own meaning (47_system.md R136). -/

namespace Sys2Proof.Machine

def exec (i : Instr) (s : State) : Host.Outcome State Fault Refusal :=
  match i with
  | .nop => Sys2Proof.Machine.execNop s
  | .keyexp => Sys2Proof.Machine.execKeyexp s
  | .encb => Sys2Proof.Machine.execEncb s
  | .decb => Sys2Proof.Machine.execDecb s
  | .cbcenc => Sys2Proof.Machine.execCbcenc s
  | .cbcdec u => Sys2Proof.Machine.execCbcdec u s
  | .pad => Sys2Proof.Machine.execPad s
  | .unpad => Sys2Proof.Machine.execUnpad s
  | .xtime => Sys2Proof.Machine.execXtime s
  | .gmul => Sys2Proof.Machine.execGmul s
  | .subb => Sys2Proof.Machine.execSubb s
  | .invsubb => Sys2Proof.Machine.execInvsubb s
  | .shrow => Sys2Proof.Machine.execShrow s
  | .invshrow => Sys2Proof.Machine.execInvshrow s
  | .mixcol => Sys2Proof.Machine.execMixcol s
  | .invmixcol => Sys2Proof.Machine.execInvmixcol s
  | .addrk rnd => Sys2Proof.Machine.execAddrk rnd s

end Sys2Proof.Machine
end

