-- ==== Sys2Proof/Machine/Operands.lean ====
section
/-! DEFINITION. The register map (10_state.md R17) and what a read or a write of each register does (R18 to R39; 20_memory.md R56 to R58). -/

namespace Sys2Proof.Machine

/-- What stands at an aligned aperture offset (10_state.md R17). -/
inductive Reg where
  | id
  | ctrl
  | status
  | cmd
  | len
  | gfA
  | gfB
  | gfR
  | key (n : Fin 4)
  | iv (n : Fin 4)
  | blk (n : Fin 4)
  | rkey (i : Fin 44)
  /-- The BUF word of bytes k..k+3. -/
  | buf (k : Nat)
  | reserved
  deriving DecidableEq, Repr

/-- The register map of R17; `size` is BUF_SIZE, `off` an aligned offset. -/
def regAt (size off : Nat) : Reg :=
  if off = 0x000 then .id
  else if off = 0x004 then .ctrl
  else if off = 0x008 then .status
  else if off = 0x00C then .cmd
  else if off = 0x010 then .len
  else if off = 0x014 then .gfA
  else if off = 0x018 then .gfB
  else if off = 0x01C then .gfR
  else if h : 0x020 ≤ off ∧ off < 0x030 then .key ⟨(off - 0x020) / 4, by omega⟩
  else if h : 0x030 ≤ off ∧ off < 0x040 then .iv ⟨(off - 0x030) / 4, by omega⟩
  else if h : 0x040 ≤ off ∧ off < 0x050 then .blk ⟨(off - 0x040) / 4, by omega⟩
  else if h : 0x100 ≤ off ∧ off < 0x1B0 then .rkey ⟨(off - 0x100) / 4, by omega⟩
  else if 0x1000 ≤ off ∧ off < 0x1000 + size then .buf (off - 0x1000)
  else .reserved

/-- ID, "AES1" (R18). -/
def idWord : Word := 0x41455331

/-- What a read returns while the engine is idle (20_memory.md R56). -/
def readReg (r : Reg) (s : State) : Word :=
  match r with
  | .id => idWord
  | .ctrl => flagWord s.ie
  | .status => statusWord s
  | .cmd => 0
  | .len => s.len
  | .gfA => s.gfA.setWidth 32
  | .gfB => s.gfB.setWidth 32
  | .gfR => s.gfR.setWidth 32
  | .key n => blockWord s.key n
  | .iv n => blockWord s.iv n
  | .blk n => blockWord s.blk n
  | .rkey i => scheduleWord s.rk i
  | .buf k => s.mem.readWord s.cfg.bufSize k
  | .reserved => 0

/-- What a write of `v` does while the engine is idle (20_memory.md R57). A KEY write also clears KEY_VALID (10_state.md R34). -/
def writeReg (r : Reg) (v : Word) (s : State) : State :=
  match r with
  | .id => s
  | .ctrl => writeCtrl v s
  | .status => writeStatus v s
  | .cmd => issue v s
  | .len => { s with len := v }
  | .gfA => { s with gfA := v.extractLsb' 0 8 }
  | .gfB => { s with gfB := v.extractLsb' 0 8 }
  | .gfR => s
  | .key n => { s with key := setBlockWord s.key n v, keyValid := false }
  | .iv n => { s with iv := setBlockWord s.iv n v }
  | .blk n => { s with blk := setBlockWord s.blk n v }
  | .rkey _ => s
  | .buf k => { s with mem := s.mem.writeWord s.cfg.bufSize k v }
  | .reserved => s

/-- The data region (20_memory.md R58): what a busy engine hides. -/
def inDataRegion : Reg → Bool
  | .id => false
  | .ctrl => false
  | .status => false
  | .cmd => true
  | .len => true
  | .gfA => true
  | .gfB => true
  | .gfR => true
  | .key _ => true
  | .iv _ => true
  | .blk _ => true
  | .rkey _ => true
  | .buf _ => true
  | .reserved => false

/-- The read-only registers of the data region: a write to one is ignored without OVR (R58). -/
def isReadOnlyData : Reg → Bool
  | .gfR => true
  | .rkey _ => true
  | _ => false

end Sys2Proof.Machine
end

