-- ==== Sys2Proof/Machine/Bus.lean ====
section
/-! DEFINITION. Host bus accesses (20_memory.md R47 to R58) and the completion step (47_system.md R135, R136). -/

namespace Sys2Proof.Machine

/-- A legal read of the register `r` (R56, R58): the value returned. -/
def busRead (r : Reg) (s : State) : Word :=
  if s.busy && inDataRegion r then 0 else readReg r s

/-- A legal write of `v` to the register `r` (R57, R58). -/
def busWrite (r : Reg) (v : Word) (s : State) : State :=
  if s.busy && inDataRegion r then (if isReadOnlyData r then s else setOvr s) else writeReg r v s

/-- Is an access of `width` bits at offset `off` decoded (R50, R51)? -/
def legalAccess (width off : Nat) : Bool := width == 32 && off % 4 == 0

/-- Does the platform address reach the aperture (R47)? -/
def inAperture (c : Config) (addr : Nat) : Bool := c.engineBase ≤ addr && addr < c.engineBase + 0x10000

/-- Records the engine's answer. -/
def respond (r : Response) (s : State) : State := { s with resp := some r }

/-- One host access (R47, R50 to R52, R56 to R58). A bus error changes no engine state (R52; log 5). -/
def hostAccess (a : Access) (s : State) : State :=
  match a with
  | .read width addr =>
    if inAperture s.cfg addr then
      let off := addr - s.cfg.engineBase
      if legalAccess width off then respond (.readData (busRead (regAt s.cfg.bufSize off) s)) s
      else respond (.readError off 0) s
    else respond .unselected s
  | .write width addr v =>
    if inAperture s.cfg addr then
      let off := addr - s.cfg.engineBase
      if legalAccess width off then respond .writeDone (busWrite (regAt s.cfg.bufSize off) v s)
      else respond (.writeError off) s
    else respond .unselected s

/-- The completion step (47_system.md R135) with Execute (R136): decode PENDING, then the command's meaning,
which ends in the completion itself; an illegal word ends in ILLEGAL_COMMAND (60_exceptions.md R148). -/
def complete (s : State) : Host.Outcome State Fault Refusal :=
  match s.pending with
  | none => .fault .pendingEmpty
  | some w =>
    match decode w with
    | .legal i => exec i s
    | .illegal _ => raiseError errIllegalCommand s

/-- The engine's turn: its step is enabled exactly when BUSY = 1 (47_system.md R135); when idle it performs no step
(60_exceptions.md R162). -/
def engineTurn (s : State) : Host.Outcome State Fault Refusal :=
  if s.busy then complete s else .next s

/-- One turn of the total order of 20_memory.md R62. -/
def takeTurn (t : Turn) (s : State) : Host.Outcome State Fault Refusal :=
  match t with
  | .host a => .next (hostAccess a s)
  | .engine => engineTurn s
  | .reset => .next (resetEngine s)

end Sys2Proof.Machine
end

