-- ==== Sys2Proof/Machine/Step.lean ====
section
/-! DEFINITION. One step of the machine, and how the host places a command (20_memory.md R62; 47_system.md R133, R137). -/

namespace Sys2Proof.Machine

/-- One step: the next turn of the agenda. When no turn is left the engine has it, so that a pending command
completes (47_system.md R137) and an idle machine stays as it is (60_exceptions.md R162; log 3).
An instance with an ill-formed BUF_SIZE is refused (00_scope.md R11). -/
def step (s : State) : Host.Outcome State Fault Refusal :=
  if s.cfg.wf then
    match s.agenda with
    | [] => engineTurn s
    | t :: rest => takeTurn t { s with agenda := rest }
  else .refused .illFormedConfig

/-- `s` just after the host has written the table word `w` to CMD, the engine's turn next (47_system.md R133; log 12). -/
def State.withFetchWord (s : State) (nbits w : Nat) : State :=
  { issue (wordOfTable nbits w) s with agenda := .engine :: s.agenda }

end Sys2Proof.Machine
end

