-- ==== Sys2Proof/Machine/HostProgram.lean ====
section
/-! DEFINITION. The assembler and the host notation (30_encoding.md R78 to R81), and the boot sequence (70_reset_and_hazards.md R168). They choose the host's accesses; the engine sees only those (log 19). -/

namespace Sys2Proof.Machine

/-- The mnemonics that take no operand (R78). -/
def plainMnemonics : List (String × Instr) :=
  [("NOP", .nop), ("KEYEXP", .keyexp), ("ENCB", .encb), ("DECB", .decb), ("CBCENC", .cbcenc),
   ("CBCDEC", .cbcdec false), ("CBCDEC.U", .cbcdec true), ("PAD", .pad), ("UNPAD", .unpad)] ++
  [("XTIME", .xtime), ("GMUL", .gmul), ("SUBB", .subb), ("INVSUBB", .invsubb), ("SHROW", .shrow),
   ("INVSHROW", .invshrow), ("MIXCOL", .mixcol), ("INVMIXCOL", .invmixcol)]

/-- The assembler (R78): a mnemonic and its operand, if any. `none` is its refusal: ADDRK without an operand or
with one above 10, an operand on another mnemonic, `.U` on another mnemonic. -/
def assemble (mnemonic : String) (operand : Option Nat) : Option Word :=
  match operand with
  | none => (plainMnemonics.find? fun p => p.1 == mnemonic).map fun p => encode p.2
  | some r => if mnemonic == "ADDRK" && r ≤ 10 then some (encode (.addrk (BitVec.ofNat 4 r))) else none

/-- One line of a host program (R79); a label is the number of its line. -/
inductive HostLine where
  /-- `wr OFF, VAL`. -/
  | wr (off : Nat) (v : Word)
  /-- `rd OFF`, checked by `-> VAL` where there is one. -/
  | rd (off : Nat) (expect : Option Word)
  /-- `bnz OFF, MASK, L`. -/
  | bnz (off : Nat) (mask : Word) (label : Nat)
  deriving DecidableEq, Repr

/-- The one bus access of a line (R79). -/
def HostLine.access (c : Config) : HostLine → Access
  | .wr off v => .write 32 (c.engineBase + off) v
  | .rd off _ => .read 32 (c.engineBase + off)
  | .bnz off _ _ => .read 32 (c.engineBase + off)

/-- The data of a legal read. Any other answer counts as 0; a refused read returns 0 (20_memory.md R52), and that the
host goes on with it is a DESIGN CHOICE (log 20). -/
def readValue : Option Response → Word
  | some (.readData v) => v
  | _ => 0

/-- The line the host goes on with after line `n` was answered with `r`: host-side control flow (R79). A bus error
changes nothing here: after a refused `wr` or `rd` the host goes on with the next line, a DESIGN CHOICE (log 20). -/
def HostLine.next (l : HostLine) (n : Nat) (r : Option Response) : Nat :=
  match l with
  | .wr _ _ => n + 1
  | .rd _ _ => n + 1
  | .bnz _ mask label => if readValue r &&& mask ≠ 0 then label else n + 1

/-- Does the answer meet the line's check (R79)? A refused `wr`, or `rd` without a check, holds, and `-> 0` holds on a
refused read: a DESIGN CHOICE (log 20). -/
def HostLine.holds (l : HostLine) (r : Option Response) : Bool :=
  match l with
  | .wr _ _ => true
  | .rd _ none => true
  | .rd _ (some v) => readValue r == v
  | .bnz _ _ _ => true

/-- `cmd M` (R80), M given by its command word. -/
def cmdLines (m : Word) : List HostLine := [.wr 0x00C m]

/-- `wait`, standing at line `n` (R80). -/
def waitLines (n : Nat) : List HostLine := [.bnz 0x008 0x1 n]

/-- `run M`, its first line at `n` (R80). -/
def runLines (n : Nat) (m : Word) : List HostLine := cmdLines m ++ waitLines (n + 1)

/-- `ack` (R80): clear DONE and OVR. -/
def ackLines : List HostLine := [.wr 0x008 0x0000000A]

/-- `wr128 OFF, H` (R80). -/
def wr128Lines (off : Nat) (h : Block) : List HostLine :=
  [.wr off (blockWord h 0), .wr (off + 4) (blockWord h 1), .wr (off + 8) (blockWord h 2), .wr (off + 12) (blockWord h 3)]

/-- `rd128 OFF -> H` (R80). -/
def rd128Lines (off : Nat) (h : Block) : List HostLine :=
  [.rd off (some (blockWord h 0)), .rd (off + 4) (some (blockWord h 1)), .rd (off + 8) (some (blockWord h 2)),
   .rd (off + 12) (some (blockWord h 3))]

/-- A buffer of any length as the words that carry it, the lowest index in bits 31:24 (20_memory.md R53). The lanes of
the last word beyond the buffer are 0: a DESIGN CHOICE, as the host of 95_test_vectors.md P2 writes them (log 21). -/
def wordsOf : List Byte → List Word
  | [] => []
  | [a] => [packWord a 0 0 0]
  | [a, b] => [packWord a b 0 0]
  | [a, b, c] => [packWord a b c 0]
  | a :: b :: c :: d :: rest => packWord a b c d :: wordsOf rest

/-- Writes words into the BUF window from its `k`-th word on. -/
def wrBufLines : Nat → List Word → List HostLine
  | _, [] => []
  | k, v :: vs => .wr (0x1000 + 4 * k) v :: wrBufLines (k + 1) vs

/-- Writes a buffer into the BUF window from offset 0x1000 (R81). -/
def loadLines (buf : List Byte) : List HostLine := wrBufLines 0 (wordsOf buf)

/-- Reads the words that hold the first `len` bytes of BUF back (R81). -/
def readBackLines (len : Nat) : List HostLine :=
  (List.range ((len + 3) / 4)).map fun k => .rd (0x1000 + 4 * k) none

/-- Writes a buffer and its length in bytes, LEN (R81, 70_reset_and_hazards.md R168). -/
def bufferLines (buf : List Byte) : List HostLine := loadLines buf ++ [.wr 0x010 (BitVec.ofNat 32 buf.length)]

/-- `initContext(key, iv)` (R81), its first line at `n`. -/
def initContextLines (n : Nat) (key iv : Block) : List HostLine :=
  wr128Lines 0x020 key ++ runLines (n + 4) (encode .keyexp) ++ wr128Lines 0x030 iv

/-- `cbcEncrypt(ctx, buf)` (R81), its first line at `n`; with `m` = CBCDEC or CBCDEC.U it is `cbcDecrypt`. `buf` may
have any length: one that is no positive multiple of 16 is the call that ends in BUFFER_LENGTH (45_cbc.md R121). -/
def cbcLines (n : Nat) (m : Instr) (buf : List Byte) : List HostLine :=
  bufferLines buf ++ runLines (n + (bufferLines buf).length) (encode m) ++ readBackLines buf.length

/-- `padPKCS7(buf, 16, len)` (R81), its first line at `n`. -/
def padLines (n : Nat) (len : Word) : List HostLine :=
  [.wr 0x010 len] ++ runLines (n + 1) (encode .pad) ++ [.rd 0x010 none]

/-- `unpadPKCS7(buf, total)` (R81), its first line at `n`. -/
def unpadLines (n : Nat) (total : Word) : List HostLine :=
  [.wr 0x010 total] ++ runLines (n + 1) (encode .unpad) ++ [.rd 0x008 none, .rd 0x010 none]

/-- The boot sequence (70_reset_and_hazards.md R168): key, schedule, IV, then one CBC encryption, checked by STATUS. -/
def bootLines (key iv : Block) (buf : List Byte) : List HostLine :=
  let start := initContextLines 0 key iv ++ bufferLines buf
  start ++ runLines start.length (encode .cbcenc) ++ [.rd 0x008 (some 0x00000006)]

/-- A host at line `line` of its program; `ok` while every check has held. -/
structure HostRun where
  line : Nat
  ok : Bool
  machine : State
  deriving DecidableEq, Repr

/-- The host executes one line: one bus access, then its control flow. 20_memory.md R52 leaves the report of a bus
error to the host, its step being faulted; this host is not stopped by one, a DESIGN CHOICE (log 20). -/
def HostRun.hostLine (p : List HostLine) (h : HostRun) : HostRun :=
  match p[h.line]? with
  | none => h
  | some l =>
    let s := hostAccess (l.access h.machine.cfg) h.machine
    { line := l.next h.line s.resp, ok := h.ok && l.holds s.resp, machine := s }

/-- The engine takes its turn; a stop leaves the run where it is. -/
def HostRun.engine (h : HostRun) : HostRun :=
  match engineTurn h.machine with
  | .next s => { h with machine := s }
  | .fault _ => h
  | .refused _ => h

/-- A host program under one interleaving (20_memory.md R62): `true` is a line of the host, `false` the engine's turn. -/
def HostRun.run (p : List HostLine) : List Bool → HostRun → HostRun
  | [], h => h
  | true :: sched, h => HostRun.run p sched (h.hostLine p)
  | false :: sched, h => HostRun.run p sched h.engine

end Sys2Proof.Machine
end

