-- ==== Sys2Proof/Safety.lean ====
section
/-! DEFINITION. What a good state is, and the terms the claims are stated in. -/

namespace Sys2Proof.Machine

/-- The codes a completion can report (60_exceptions.md R142, R143). -/
def producedCodes : List ErrCode :=
  [errNone, errBufferLength, errInvalidPadding, errKeyNotExpanded, errCapacity, errIllegalCommand]

/-- The invariant of every reachable state. -/
structure State.Inv (s : State) : Prop where
  /-- 00_scope.md R11. -/
  config : s.cfg.wf
  /-- The canonical form of BUF. -/
  memory : s.mem.wf s.cfg.bufSize
  /-- 10_state.md R43, first half. -/
  busyState : s.busy = true → s.done = false ∧ s.err = errNone ∧ s.pending.isSome = true
  /-- R43, second half. -/
  idleState : s.busy = false → s.pending = none
  /-- 10_state.md R22: KEY_VALID stands only over the schedule of the current KEY (log 9). -/
  schedule : s.keyValid = true → s.rk = keyExpansion s.key
  /-- 60_exceptions.md R142: ERR values 1, 2 and 8..15 are never produced. -/
  error : s.err ∈ producedCodes

/-- Is the next turn the engine's? So it is too when no turn is left. -/
def engineIsNext (s : State) : Bool :=
  match s.agenda with
  | [] => true
  | .engine :: _ => true
  | _ => false

/-- The state a turn acts on: that turn is no longer to come. -/
def dropTurn (s : State) : State := { s with agenda := s.agenda.tail }

/-- `MemRead(off, 4)` (00_scope.md R15). -/
def memRead (c : Config) (off : Nat) : Access := .read 32 (c.engineBase + off)

/-- `MemWrite(off, 4, v)` (R15). -/
def memWrite (c : Config) (off : Nat) (v : Word) : Access := .write 32 (c.engineBase + off) v

/-- An aligned offset of the aperture (20_memory.md R47, R51). -/
abbrev legalOffset (off : Nat) : Prop := off < 0x10000 ∧ off % 4 = 0

/-- The platform address of an access. -/
def accessAddr : Access → Nat
  | .read _ addr => addr
  | .write _ addr _ => addr

/-- The width of an access in bits. -/
def accessWidth : Access → Nat
  | .read width _ => width
  | .write width _ _ => width

/-- What the host reads off an answer, where there is data. -/
def responseData : Response → Option Word
  | .readData v => some v
  | .readError _ v => some v
  | _ => none

/-- BUF[i] of a state. -/
def bufByte (s : State) (i : Nat) : Byte := s.mem.read s.cfg.bufSize i

/-- The block BUF[16b .. 16b+16) of a state. -/
def bufBlock (s : State) (b : Nat) : Block := s.mem.readBlock s.cfg.bufSize b

/-- The state after a command that wrote `t` over `s` has completed with `code`, from the words of
47_system.md R135: only ERR, BUSY, DONE and PENDING differ from `t`. -/
def completedWith (code : ErrCode) (t : State) : State :=
  { t with err := code, busy := false, done := true, pending := none }

/-- A command whose one legal word is `w`: it decodes so, and any other word with the same OP is illegal
("Errors: only ILLEGAL_COMMAND", the command rules of 41_gf.md to 47_system.md). -/
def onlyWordIs (w : Word) (i : Instr) : Prop :=
  decode w = .legal i ∧
    ∀ v : Word, v.extractLsb' 0 5 = w.extractLsb' 0 5 → v ≠ w → ∃ why, decode v = .illegal why

/-- The commands that use the schedule (60_exceptions.md R151). -/
def needsKey : Instr → Bool
  | .encb => true
  | .decb => true
  | .cbcenc => true
  | .cbcdec _ => true
  | .addrk _ => true
  | _ => false

/-- The CBC commands. -/
def isCbc : Instr → Bool
  | .cbcenc => true
  | .cbcdec _ => true
  | _ => false

/-- The commands that write BLK (10_state.md R44). -/
def writesBlk : Instr → Bool
  | .encb => true
  | .decb => true
  | .subb => true
  | .invsubb => true
  | .shrow => true
  | .invshrow => true
  | .mixcol => true
  | .invmixcol => true
  | .addrk _ => true
  | _ => false

/-- The commands that write BUF (R44). -/
def writesBuf : Instr → Bool
  | .cbcenc => true
  | .cbcdec _ => true
  | .pad => true
  | .unpad => true
  | _ => false

/-- Is the last byte, or any of the last p bytes, of BUF[0..LEN) no PKCS#7 padding (60_exceptions.md R145)? -/
def badPadding (s : State) : Prop :=
  s.len.toNat = 0 ∨
    let p := (bufByte s (s.len.toNat - 1)).toNat
    p = 0 ∨ 16 < p ∨ s.len.toNat < p ∨
      ∃ j, s.len.toNat - p ≤ j ∧ j < s.len.toNat ∧ (bufByte s j).toNat ≠ p

/-- Several host accesses, one after the other, with no other turn between them. -/
def hostAccesses (as : List Access) (s : State) : State := as.foldl (fun s a => hostAccess a s) s

end Sys2Proof.Machine
end

