-- ==== Sys2Proof/Certificates/Slice0/Obligations.lean ====
section
/-! DEFINITION. The statements for the provers. `completedWith code t` (Safety.lean) is `t` after the writes of the completion step; every field a statement does not name stands in `s` inside it, so each equality is also the frame. -/

open Sys2Proof Sys2Proof.Machine

/-! ### Encoding -/

/-- 30_encoding.md R72, R73, R75: words written out from the field layout, bit by bit (derived; a sanity check). -/
def Obligations.SpecWordsDecodeAsTheTableSays : Prop :=
  decode 0b0000000000000000000_0_0000_000_00000#32 = .legal .nop ∧
  decode 0b0000000000000000000_0_0000_000_00001#32 = .legal .keyexp ∧
  decode 0b0000000000000000000_0_0000_000_00011#32 = .legal .decb ∧
  decode 0b0000000000000000000_1_0000_000_00101#32 = .legal (.cbcdec true) ∧
  decode 0b0000000000000000000_0_0000_000_00111#32 = .legal .unpad ∧
  decode 0b0000000000000000000_0_0000_000_01001#32 = .legal .gmul ∧
  decode 0b0000000000000000000_0_1010_000_10000#32 = .legal (.addrk 10) ∧
  decode 0b0000000000000000000_0_1011_000_10000#32 = .illegal .roundOutOfRange ∧
  decode 0b0000000000000000000_0_0001_001_00100#32 = .illegal .reservedBits

/-- 30_encoding.md R73, R74 (R73 is marked derived in the spec): decoding and encoding are inverse of each other, over all 2^32 words and all commands. -/
def Obligations.DecodeAndEncodeAgree : Prop :=
  ∀ (w : Word) (i : Instr), decode w = .legal i ↔ i.wf = true ∧ encode i = w

/-- 30_encoding.md R73, last sentence, which the spec marks derived: the legal words, counted out. -/
def Obligations.LegalWordsAreTheTwentyEight : Prop :=
  ∀ w : Word, (∃ i, decode w = .legal i) ↔
    (w.toNat ≤ 0x0F ∨ w.toNat = 0x1005 ∨ ∃ r ≤ 10, w.toNat = 0x10 + 0x100 * r)

/-- 30_encoding.md R78: what the assembler makes is exactly the legal words. -/
def Obligations.AssemblerMakesExactlyTheLegalWords : Prop :=
  ∀ w : Word, (∃ mnemonic operand, assemble mnemonic operand = some w) ↔ ∃ i, decode w = .legal i

/-! ### Steps and invariants -/

/-- 47_system.md R135, R136: on the engine's turn a pending legal word runs as its command. -/
def Obligations.StepRunsTheDecodedCommand : Prop :=
  ∀ (s : State) (w : Word) (i : Instr), s.cfg.wf → engineIsNext s = true → s.busy = true → s.pending = some w →
    decode w = .legal i → step s = exec i (dropTurn s)

/-- The model's own convention (log 12): `withFetchWord` makes the very next step run the word. -/
def Obligations.StepRunsTheFetchedWord : Prop :=
  ∀ (s : State) (nbits w : Nat) (i : Instr), s.cfg.wf → decode (wordOfTable nbits w) = .legal i →
    step (s.withFetchWord nbits w) =
      exec i { s with pending := some (wordOfTable nbits w), busy := true, done := false, err := 0 }

/-- 20_memory.md R62, 60_exceptions.md R162, 00_scope.md R11, under the model's conventions of logs 3 and 8:
one turn of the agenda a step; an idle engine's turn changes nothing; an ill-formed instance is refused. -/
def Obligations.StepTakesTheNextTurn : Prop :=
  ∀ s : State,
    (s.cfg.wf → ∀ a rest, s.agenda = .host a :: rest → step s = .next (hostAccess a { s with agenda := rest })) ∧
    (s.cfg.wf → ∀ rest, s.agenda = .reset :: rest → step s = .next (resetEngine { s with agenda := rest })) ∧
    (s.cfg.wf → engineIsNext s = true → s.busy = false → step s = .next (dropTurn s)) ∧
    (¬ s.cfg.wf → step s = .refused .illFormedConfig)

/-- 60_exceptions.md R148: every word Decode refuses completes with code 7 and changes nothing else. -/
def Obligations.IllegalWordCompletesWithCode7 : Prop :=
  ∀ (s : State) (w : Word), s.cfg.wf → engineIsNext s = true → s.busy = true → s.pending = some w →
    (∀ i, decode w ≠ .legal i) → step s = .next (completedWith 7 (dropTurn s))

/-- 10_state.md R43, R22, 60_exceptions.md R142 and the canonical form of BUF: every step keeps the invariant and the
instance's parameters. -/
def Obligations.StepKeepsTheInvariant : Prop :=
  ∀ s t : State, s.Inv → step s = .next t → t.Inv ∧ t.cfg = s.cfg

/-- In a state that meets the invariant no step stops. -/
def Obligations.StepNeverStopsUnderTheInvariant : Prop :=
  ∀ s : State, s.Inv → ∃ t, step s = .next t

/-- The invariant at reset. -/
def Obligations.ResetMeetsTheInvariant : Prop := State.reset.Inv

/-- 10_state.md R22, "No other event changes it": KEY_VALID rises only by KEYEXP and falls only by an accepted KEY
write or a reset. -/
def Obligations.KeyValidChangesOnlyByItsEvents : Prop :=
  ∀ s t : State, s.cfg.wf → step s = .next t → t.keyValid ≠ s.keyValid →
    (t.keyValid = true ∧ engineIsNext s = true ∧ s.busy = true ∧ s.pending = some 0x00000001) ∨
    (t.keyValid = false ∧ s.agenda.head? = some .reset) ∨
    (t.keyValid = false ∧ s.busy = false ∧ ∃ (n : Fin 4) (v : Word),
      s.agenda.head? = some (.host (memWrite s.cfg (0x020 + 4 * n.val) v)))

/-- 10_state.md R23: OVR rises only by a dropped write while busy, to the data region less GF_R and RKEY (20_memory.md
R58), and falls only by a STATUS write with bit 3 set, or a reset (70_reset_and_hazards.md R163). -/
def Obligations.OvrChangesOnlyByItsEvents : Prop :=
  ∀ s t : State, s.cfg.wf → step s = .next t → t.ovr ≠ s.ovr →
    (t.ovr = true ∧ s.busy = true ∧ ∃ off v, legalOffset off ∧
      ((0x00C ≤ off ∧ off < 0x050 ∧ off ≠ 0x01C) ∨ (0x1000 ≤ off ∧ off < 0x1000 + s.cfg.bufSize)) ∧
      s.agenda.head? = some (.host (memWrite s.cfg off v))) ∨
    (t.ovr = false ∧ s.agenda.head? = some .reset) ∨
    (t.ovr = false ∧ ∃ v : Word, v.getLsbD 3 = true ∧
      s.agenda.head? = some (.host (memWrite s.cfg 0x008 v)))

/-! ### Rules over all commands -/

/-- 60_exceptions.md R149: every command completes, and one that ends with a nonzero code has changed no state other
than STATUS and the latch. -/
def Obligations.EveryCommandCompletesAndErrorsChangeNothing : Prop :=
  ∀ (i : Instr) (s : State), ∃ t, exec i s = .next t ∧
    t.busy = false ∧ t.done = true ∧ t.pending = none ∧ (t.err ≠ 0 → t = completedWith t.err s)

/-- 10_state.md R44, R46 (R46 is marked derived in the spec): which commands write what; everything else is unchanged by every command. -/
def Obligations.CommandsWriteOnlyTheirRegisters : Prop :=
  ∀ (i : Instr) (s t : State), exec i s = .next t →
    t.cfg = s.cfg ∧ t.ie = s.ie ∧ t.ovr = s.ovr ∧ t.gfA = s.gfA ∧ t.gfB = s.gfB ∧ t.key = s.key ∧
    t.agenda = s.agenda ∧ t.resp = s.resp ∧
    (i ≠ .keyexp → t.rk = s.rk ∧ t.keyValid = s.keyValid) ∧
    (i ≠ .xtime → i ≠ .gmul → t.gfR = s.gfR) ∧
    (i ≠ .pad → i ≠ .unpad → t.len = s.len) ∧
    (i ≠ .cbcenc → i ≠ .cbcdec true → t.iv = s.iv) ∧
    (writesBlk i = false → t.blk = s.blk) ∧
    (writesBuf i = false → t.mem = s.mem)

/-- 60_exceptions.md R151: the one code reported, for every word and every state. -/
def Obligations.ErrorCodeFollowsThePriority : Prop :=
  (∀ (s : State) (w : Word), s.busy = true → s.pending = some w → (∀ i, decode w ≠ .legal i) →
    engineTurn s = .next (completedWith 7 s)) ∧
  ∀ (i : Instr) (s t : State), i.wf = true → s.cfg.wf → exec i s = .next t →
    let l := s.len.toNat
    let size := s.cfg.bufSize
    (needsKey i = true ∧ s.keyValid = false → t.err = 5) ∧
    (isCbc i = true ∧ s.keyValid = true ∧ ¬(0 < l ∧ l % 16 = 0 ∧ l ≤ size) → t.err = 3) ∧
    (i = .unpad ∧ size < l → t.err = 3) ∧
    (i = .pad ∧ size ≤ l → t.err = 6) ∧
    (i = .unpad ∧ l ≤ size ∧ badPadding s → t.err = 4) ∧
    (¬(needsKey i = true ∧ s.keyValid = false) ∧ ¬(isCbc i = true ∧ ¬(0 < l ∧ l % 16 = 0 ∧ l ≤ size)) ∧
      ¬(i = .unpad ∧ (size < l ∨ badPadding s)) ∧ ¬(i = .pad ∧ size ≤ l) → t.err = 0)

/-- 60_exceptions.md R146: the five commands that use the schedule refuse to run without one. -/
def Obligations.KeyNotExpandedIsReported : Prop :=
  ∀ (i : Instr) (s : State), i.wf = true → s.keyValid = false →
    (i = .encb ∨ i = .decb ∨ i = .cbcenc ∨ (∃ u, i = .cbcdec u) ∨ ∃ r, i = .addrk r) →
    exec i s = .next (completedWith 5 s)

/-! ### NOP, GF(2^8) -/

/-- 47_system.md R139. -/
def Obligations.NopOnlyCompletes : Prop :=
  onlyWordIs 0x00000000 .nop ∧ ∀ s : State, exec .nop s = .next (completedWith 0 s)

/-- 41_gf.md R92, with xtime written out from R89. -/
def Obligations.XtimeDoublesGfA : Prop :=
  onlyWordIs 0x00000008 .xtime ∧ ∀ s : State, exec .xtime s = .next (completedWith 0
    { s with gfR := if s.gfA.getLsbD 7 = true then (s.gfA <<< 1) ^^^ 0x1B else s.gfA <<< 1 })

/-- 41_gf.md R93, with the product written as the sum of the doublings of GF_A that the bits of GF_B select (R90). -/
def Obligations.GmulMultipliesGfAByGfB : Prop :=
  onlyWordIs 0x00000009 .gmul ∧ ∀ s : State,
    let terms := (List.range 8).map fun k => if s.gfB.getLsbD k = true then xtime^[k] s.gfA else 0
    let sum := terms.foldr (fun x y => x ^^^ y) 0
    exec .gmul s = .next (completedWith 0 { s with gfR := sum })

/-- 41_gf.md R91, which the spec marks derived: gmul is the multiplication of a field, and for multipliers below 32 the 5-bit loop agrees. -/
def Obligations.GmulIsFieldMultiplication : Prop :=
  (∀ a b : Byte, gmul a b = gmul b a) ∧
  (∀ a b c : Byte, gmul (gmul a b) c = gmul a (gmul b c)) ∧
  (∀ a b c : Byte, gmul a (b ^^^ c) = gmul a b ^^^ gmul a c) ∧
  (∀ a : Byte, gmul a 1 = a ∧ gmul a 0 = 0) ∧
  (∀ a : Byte, a ≠ 0 → ∃! y : Byte, gmul a y = 1) ∧
  (∀ a b : Byte, b.toNat < 32 → gmulLoop 5 0 a b 0 = gmul a b)

/-! ### Tables -/

/-- 40_tables.md R84 (its values are marked derived in the spec): the two tables are inverse permutations. -/
def Obligations.SboxAndInverseCancel : Prop :=
  ∀ x : Byte, invSbox (sbox x) = x ∧ sbox (invSbox x) = x

/-- 40_tables.md R83, which the spec takes from general knowledge: each entry is the affine map of the field inverse; no entry is its own index. -/
def Obligations.SboxIsAffineOfFieldInverse : Prop :=
  (∀ x y : Byte, (x = 0 ∧ y = 0 ∨ gmul x y = 1) →
    sbox x = y ^^^ y.rotateLeft 1 ^^^ y.rotateLeft 2 ^^^ y.rotateLeft 3 ^^^ y.rotateLeft 4 ^^^ 0x63) ∧
  ∀ x : Byte, sbox x ≠ x

/-- 40_tables.md R85, which the spec marks derived (its reading is decision D38). -/
def Obligations.RconIsTheTable : Prop :=
  rcon 1 = 0x01 ∧ (∀ r, 1 ≤ r → r ≤ 9 → rcon (r + 1) = xtime (rcon r)) ∧
  [1, 2, 3, 4, 5, 6, 7, 8, 9, 10].map rcon = [0x01, 0x02, 0x04, 0x08, 0x10, 0x20, 0x40, 0x80, 0x1b, 0x36]

/-! ### Round transforms -/

/-- 42_round.md R104, R105: SUBB and INVSUBB, byte by byte. -/
def Obligations.SubstitutionCommandsMapEveryByte : Prop :=
  onlyWordIs 0x0000000A .subb ∧ onlyWordIs 0x0000000B .invsubb ∧ ∀ s : State,
    exec .subb s = .next (completedWith 0 { s with blk := s.blk.map sbox }) ∧
    exec .invsubb s = .next (completedWith 0 { s with blk := s.blk.map invSbox })

/-- 42_round.md R106, R107, with the byte permutations of R98 and R99. -/
def Obligations.ShiftCommandsPermuteBytes : Prop :=
  onlyWordIs 0x0000000C .shrow ∧ onlyWordIs 0x0000000D .invshrow ∧ ∀ s : State,
    exec .shrow s = .next (completedWith 0 { s with blk :=
      #v[s.blk[0], s.blk[5], s.blk[10], s.blk[15], s.blk[4], s.blk[9], s.blk[14], s.blk[3],
         s.blk[8], s.blk[13], s.blk[2], s.blk[7], s.blk[12], s.blk[1], s.blk[6], s.blk[11]] }) ∧
    exec .invshrow s = .next (completedWith 0 { s with blk :=
      #v[s.blk[0], s.blk[13], s.blk[10], s.blk[7], s.blk[4], s.blk[1], s.blk[14], s.blk[11],
         s.blk[8], s.blk[5], s.blk[2], s.blk[15], s.blk[12], s.blk[9], s.blk[6], s.blk[3]] })

/-- 42_round.md R108, R109, with the matrices of R100 and R101, each row as one word whose byte lanes are its four
coefficients. -/
def Obligations.ColumnCommandsMultiplyByTheMatrices : Prop :=
  onlyWordIs 0x0000000E .mixcol ∧ onlyWordIs 0x0000000F .invmixcol ∧ ∀ s : State, ∃ b d : Block,
    exec .mixcol s = .next (completedWith 0 { s with blk := b }) ∧
    exec .invmixcol s = .next (completedWith 0 { s with blk := d }) ∧
    ∀ r c : Fin 4,
      let dot (row : Word) : Byte := gmul (laneOf row 0) s.blk[4 * c.val] ^^^
        gmul (laneOf row 1) s.blk[4 * c.val + 1] ^^^ gmul (laneOf row 2) s.blk[4 * c.val + 2] ^^^
        gmul (laneOf row 3) s.blk[4 * c.val + 3]
      b[r.val + 4 * c.val] = dot (#v[0x02030101, 0x01020301, 0x01010203, 0x03010102] : Vector Word 4)[r] ∧
      d[r.val + 4 * c.val] = dot (#v[0x0e0b0d09, 0x090e0b0d, 0x0d090e0b, 0x0b0d090e] : Vector Word 4)[r]

/-- 42_round.md R110: ADDRK, its words, its result, its error. -/
def Obligations.AddrkAddsARoundKey : Prop :=
  (∀ r : BitVec 4, r.toNat ≤ 10 → decode (0x10 ||| (r.setWidth 32 <<< 8)) = .legal (.addrk r)) ∧
  (∀ w : Word, w.extractLsb' 0 5 = 0x10 → (∀ r ≤ 10, w.toNat ≠ 0x10 + 0x100 * r) → ∃ why, decode w = .illegal why) ∧
  ∀ (s : State) (r : BitVec 4) (hr : r.toNat ≤ 10),
    (s.keyValid = true → ∃ b : Block, exec (.addrk r) s = .next (completedWith 0 { s with blk := b }) ∧
      ∀ i : Fin 16, b[i] = s.blk[i] ^^^ s.rk[16 * r.toNat + i.val]) ∧
    (s.keyValid = false → exec (.addrk r) s = .next (completedWith 5 s))

/-- The inverse laws of 42_round.md R95, R97, R99, R101: every round transform is undone by its inverse. -/
def Obligations.RoundTransformsAreInvertible : Prop :=
  (∀ (s : Block) (rk : Schedule) (r : RoundIndex), addRoundKey (addRoundKey s rk r) rk r = s) ∧
  (∀ s : Block, invSubBytes (subBytes s) = s ∧ subBytes (invSubBytes s) = s) ∧
  (∀ s : Block, invShiftRows (shiftRows s) = s ∧ shiftRows (invShiftRows s) = s) ∧
  (∀ s : Block, invMixColumns (mixColumns s) = s ∧ mixColumns (invMixColumns s) = s)

/-! ### Key schedule and block cipher -/

/-- 43_keysched.md R111: the first words are the key, and every later word is the recurrence. -/
def Obligations.KeyExpansionIsTheRecurrence : Prop :=
  ∀ key : Block,
    (∀ k : Fin 16, (keyExpansion key)[k.val] = key[k]) ∧
    ∀ (i : Nat) (h4 : 4 ≤ i) (h44 : i < 44) (j : Fin 4),
      (keyExpansion key)[4 * i + j.val] = (keyExpansion key)[4 * (i - 4) + j.val] ^^^
        (if i % 4 = 0 then
          sbox ((keyExpansion key)[4 * (i - 1) + (j.val + 1) % 4]'(by omega)) ^^^
            (if j.val = 0 then rcon (i / 4) else 0)
        else (keyExpansion key)[4 * (i - 1) + j.val])

/-- 43_keysched.md R113. -/
def Obligations.KeyexpWritesTheScheduleOfKey : Prop :=
  onlyWordIs 0x00000001 .keyexp ∧ ∀ s : State,
    exec .keyexp s = .next (completedWith 0 { s with rk := keyExpansion s.key, keyValid := true })

/-- 44_cipher.md R115, R116, the rounds written out. -/
def Obligations.CipherIsTheTenRounds : Prop :=
  ∀ (b : Block) (rk : Schedule),
    let f (r : RoundIndex) (s : Block) : Block := addRoundKey (mixColumns (shiftRows (subBytes s))) rk r
    let g (r : RoundIndex) (s : Block) : Block := invMixColumns (addRoundKey (invSubBytes (invShiftRows s)) rk r)
    cipher b rk = addRoundKey (shiftRows (subBytes
      (f 9 (f 8 (f 7 (f 6 (f 5 (f 4 (f 3 (f 2 (f 1 (addRoundKey b rk 0)))))))))))) rk 10 ∧
    invCipher b rk = addRoundKey (invSubBytes (invShiftRows
      (g 1 (g 2 (g 3 (g 4 (g 5 (g 6 (g 7 (g 8 (g 9 (addRoundKey b rk 10)))))))))))) rk 0

/-- 44_cipher.md R117, which the spec marks derived. -/
def Obligations.CipherAndInverseCancel : Prop :=
  ∀ key x : Block, invCipher (cipher x (keyExpansion key)) (keyExpansion key) = x ∧
    cipher (invCipher x (keyExpansion key)) (keyExpansion key) = x

/-- 44_cipher.md R118. -/
def Obligations.KnownAnswerVector : Prop :=
  let key : Block := #v[0x00, 0x01, 0x02, 0x03, 0x04, 0x05, 0x06, 0x07, 0x08, 0x09, 0x0a, 0x0b, 0x0c, 0x0d, 0x0e, 0x0f]
  let plain : Block := #v[0x00, 0x11, 0x22, 0x33, 0x44, 0x55, 0x66, 0x77, 0x88, 0x99, 0xaa, 0xbb, 0xcc, 0xdd, 0xee, 0xff]
  let coded : Block := #v[0x69, 0xc4, 0xe0, 0xd8, 0x6a, 0x7b, 0x04, 0x30, 0xd8, 0xcd, 0xb7, 0x80, 0x70, 0xb4, 0xc5, 0x5a]
  cipher plain (keyExpansion key) = coded ∧ invCipher coded (keyExpansion key) = plain

/-- 44_cipher.md R119, R120. -/
def Obligations.BlockCommandsCipherBlk : Prop :=
  onlyWordIs 0x00000002 .encb ∧ onlyWordIs 0x00000003 .decb ∧ ∀ s : State,
    (s.keyValid = true →
      exec .encb s = .next (completedWith 0 { s with blk := cipher s.blk s.rk }) ∧
      exec .decb s = .next (completedWith 0 { s with blk := invCipher s.blk s.rk })) ∧
    (s.keyValid = false →
      exec .encb s = .next (completedWith 5 s) ∧ exec .decb s = .next (completedWith 5 s))

/-! ### CBC -/

/-- 45_cbc.md R126, the chain of R122 said of every block: C_b = Cipher(P_b ^ C_(b-1)), C_(-1) = IV. -/
def Obligations.CbcencChainsEveryBlock : Prop :=
  onlyWordIs 0x00000004 .cbcenc ∧ ∀ s : State,
    (s.keyValid = true → 0 < s.len.toNat ∧ s.len.toNat % 16 = 0 ∧ s.len.toNat ≤ s.cfg.bufSize →
      ∃ t, exec .cbcenc s = .next t ∧
        t = completedWith 0 { s with mem := t.mem, iv := bufBlock t (s.len.toNat / 16 - 1) } ∧
        (∀ b, b < s.len.toNat / 16 →
          bufBlock t b = cipher (xorBlock (bufBlock s b) (if b = 0 then s.iv else bufBlock t (b - 1))) s.rk) ∧
        ∀ j, s.len.toNat ≤ j → bufByte t j = bufByte s j) ∧
    (s.keyValid = true → ¬(0 < s.len.toNat ∧ s.len.toNat % 16 = 0 ∧ s.len.toNat ≤ s.cfg.bufSize) →
      exec .cbcenc s = .next (completedWith 3 s)) ∧
    (s.keyValid = false → exec .cbcenc s = .next (completedWith 5 s))

/-- 45_cbc.md R127, the chain of R123 said of every block: P_b = InvCipher(C_b) ^ C_(b-1), C_(-1) = IV. -/
def Obligations.CbcdecUnchainsEveryBlock : Prop :=
  (∀ u, decode (if u = true then 0x00001005 else 0x00000005) = .legal (.cbcdec u)) ∧
  (∀ w : Word, w.extractLsb' 0 5 = 0x05 → w ≠ 0x00000005 → w ≠ 0x00001005 → ∃ why, decode w = .illegal why) ∧
  ∀ (s : State) (u : Bool),
    (s.keyValid = true → 0 < s.len.toNat ∧ s.len.toNat % 16 = 0 ∧ s.len.toNat ≤ s.cfg.bufSize →
      ∃ t, exec (.cbcdec u) s = .next t ∧
        t = completedWith 0 { s with
          mem := t.mem, iv := if u = true then bufBlock s (s.len.toNat / 16 - 1) else s.iv } ∧
        (∀ b, b < s.len.toNat / 16 →
          bufBlock t b = xorBlock (invCipher (bufBlock s b) s.rk) (if b = 0 then s.iv else bufBlock s (b - 1))) ∧
        ∀ j, s.len.toNat ≤ j → bufByte t j = bufByte s j) ∧
    (s.keyValid = true → ¬(0 < s.len.toNat ∧ s.len.toNat % 16 = 0 ∧ s.len.toNat ≤ s.cfg.bufSize) →
      exec (.cbcdec u) s = .next (completedWith 3 s)) ∧
    (s.keyValid = false → exec (.cbcdec u) s = .next (completedWith 5 s))

/-- 45_cbc.md R125, which the spec marks derived: decrypting what was just encrypted, seeded with the original IV, gives the buffer back. -/
def Obligations.CbcRoundTripRestoresTheBuffer : Prop :=
  ∀ (s : State) (u : Bool), s.keyValid = true →
    0 < s.len.toNat ∧ s.len.toNat % 16 = 0 ∧ s.len.toNat ≤ s.cfg.bufSize →
    ∃ t r, exec .cbcenc s = .next t ∧ exec (.cbcdec u) { t with iv := s.iv } = .next r ∧
      r.err = 0 ∧ ∀ j, bufByte r j = bufByte s j

/-! ### PKCS#7 -/

/-- 46_pkcs7.md R130. -/
def Obligations.PadAppendsPadding : Prop :=
  onlyWordIs 0x00000006 .pad ∧ ∀ s : State, s.cfg.wf →
    let l := s.len.toNat
    let p := 16 - l % 16
    (s.cfg.bufSize < l + p ↔ s.cfg.bufSize ≤ l) ∧
    (s.cfg.bufSize < l + p → exec .pad s = .next (completedWith 6 s)) ∧
    (l + p ≤ s.cfg.bufSize → ∃ t, exec .pad s = .next t ∧
      t = completedWith 0 { s with mem := t.mem, len := t.len } ∧ t.len.toNat = l + p ∧
      ∀ j, bufByte t j = if l ≤ j ∧ j < l + p then BitVec.ofNat 8 p else bufByte s j)

/-- 46_pkcs7.md R131, 60_exceptions.md R145. -/
def Obligations.UnpadStripsValidPadding : Prop :=
  onlyWordIs 0x00000007 .unpad ∧ ∀ s : State,
    let l := s.len.toNat
    let p := (bufByte s (l - 1)).toNat
    (s.cfg.bufSize < l → exec .unpad s = .next (completedWith 3 s)) ∧
    (l ≤ s.cfg.bufSize → badPadding s → exec .unpad s = .next (completedWith 4 s)) ∧
    (l ≤ s.cfg.bufSize → ¬ badPadding s → ∃ t, exec .unpad s = .next t ∧
      t = completedWith 0 { s with mem := t.mem, len := t.len } ∧ t.len.toNat = l - p ∧
      ∀ j, bufByte t j = if l - p ≤ j ∧ j < l then 0 else bufByte s j)

/-- 46_pkcs7.md R132, which the spec marks derived. -/
def Obligations.PadThenUnpadRestoresTheLength : Prop :=
  (∀ s : State, s.cfg.wf → s.len.toNat + (16 - s.len.toNat % 16) ≤ s.cfg.bufSize →
    ∃ t r, exec .pad s = .next t ∧ t.len.toNat % 16 = 0 ∧ s.len.toNat < t.len.toNat ∧
      exec .unpad t = .next r ∧ r.err = 0 ∧ r.len = s.len ∧ ∀ j, j < s.len.toNat → bufByte r j = bufByte s j) ∧
  ∀ s : State, 0 < s.len.toNat → s.len.toNat ≤ s.cfg.bufSize →
    ((bufByte s (s.len.toNat - 1)).toNat = 0 ∨ 16 < (bufByte s (s.len.toNat - 1)).toNat) →
    exec .unpad s = .next (completedWith 4 s)

/-! ### Host accesses -/

/-- 20_memory.md R52, under the convention of log 5: an access of another width or a misaligned one changes no engine
state, and a read so refused returns 0. -/
def Obligations.BusErrorChangesNoState : Prop :=
  ∀ (s : State) (a : Access), inAperture s.cfg (accessAddr a) = true →
    (accessWidth a ≠ 32 ∨ (accessAddr a - s.cfg.engineBase) % 4 ≠ 0) →
    ∃ r, hostAccess a s = { s with resp := some r } ∧
      ((∃ width addr, a = .read width addr) → r = .readError (accessAddr a - s.cfg.engineBase) 0) ∧
      ((∃ width addr v, a = .write width addr v) → r = .writeError (accessAddr a - s.cfg.engineBase))

/-- 20_memory.md R47: an access reaches the aperture exactly when ENGINE_BASE ≤ a < ENGINE_BASE + 0x10000; another,
a read or a write, leaves the engine as it is. Its answer is the model's convention (log 6). -/
def Obligations.OnlyTheApertureIsTheEngines : Prop :=
  ∀ (s : State) (a : Access),
    let inside := s.cfg.engineBase ≤ accessAddr a ∧ accessAddr a < s.cfg.engineBase + 0x10000
    (inside → (hostAccess a s).resp ≠ some .unselected) ∧
    (¬ inside → hostAccess a s = { s with resp := some .unselected })

/-- 20_memory.md R60, which the spec marks derived, "No read has a side effect": a read of any kind at any address changes only the answer. -/
def Obligations.ReadsHaveNoSideEffect : Prop :=
  ∀ (s : State) (width addr : Nat), ∃ r, hostAccess (.read width addr) s = { s with resp := some r }

/-- 47_system.md R133. -/
def Obligations.IdleCmdWriteIssues : Prop :=
  ∀ (s : State) (v : Word), s.busy = false →
    hostAccess (memWrite s.cfg 0x00C v) s =
      { s with pending := some v, busy := true, done := false, err := 0, resp := some .writeDone }

/-- 20_memory.md R58, with the offsets of 10_state.md R17: reads and writes while busy, at every legal offset. -/
def Obligations.BusyEngineHidesTheDataRegion : Prop :=
  ∀ (s : State) (off : Nat) (v : Word), s.busy = true → legalOffset off →
    let hidden := (0x00C ≤ off ∧ off < 0x050) ∨ (0x100 ≤ off ∧ off < 0x1B0) ∨
      (0x1000 ≤ off ∧ off < 0x1000 + s.cfg.bufSize)
    let readOnly := off = 0x01C ∨ (0x100 ≤ off ∧ off < 0x1B0)
    let rd (w : Word) := hostAccess (memRead s.cfg off) s = { s with resp := some (.readData w) }
    let wr (t : State) := hostAccess (memWrite s.cfg off v) s = { t with resp := some .writeDone }
    (hidden → rd 0) ∧
    (hidden ∧ ¬readOnly → wr { s with ovr := true }) ∧
    (hidden ∧ readOnly → wr s) ∧
    (off = 0x000 → rd 0x41455331 ∧ wr s) ∧
    (off = 0x004 → rd (if s.ie = true then 1 else 0) ∧ wr { s with ie := v.getLsbD 0 }) ∧
    (off = 0x008 → rd (statusWord s) ∧ wr { s with
      done := if v.getLsbD 1 = true then false else s.done, ovr := if v.getLsbD 3 = true then false else s.ovr }) ∧
    (¬hidden ∧ 0x00C ≤ off → rd 0 ∧ wr s)

/-- 10_state.md R39, with the reserved offsets of R17: RAZ/WI whether or not the engine is busy. -/
def Obligations.ReservedOffsetsReadZeroIgnoreWrites : Prop :=
  ∀ (s : State) (off : Nat) (v : Word), legalOffset off →
    ((0x050 ≤ off ∧ off < 0x100) ∨ (0x1B0 ≤ off ∧ off < 0x1000) ∨ 0x1000 + s.cfg.bufSize ≤ off) →
    hostAccess (memRead s.cfg off) s = { s with resp := some (.readData 0) } ∧
    hostAccess (memWrite s.cfg off v) s = { s with resp := some .writeDone }

/-- 10_state.md R25: the layout of STATUS, read at any time, and writes to its reserved bits, which are ignored. -/
def Obligations.StatusReadShowsTheFlags : Prop :=
  ∀ s : State, ∃ w : Word, hostAccess (memRead s.cfg 0x008) s = { s with resp := some (.readData w) } ∧
    w.getLsbD 0 = s.busy ∧ w.getLsbD 1 = s.done ∧ w.getLsbD 2 = s.keyValid ∧ w.getLsbD 3 = s.ovr ∧
    w.extractLsb' 8 4 = s.err ∧ w.extractLsb' 4 4 = 0 ∧ w.extractLsb' 12 20 = 0 ∧
    ∀ v : Word, hostAccess (memWrite s.cfg 0x008 v) s = hostAccess (memWrite s.cfg 0x008 (v &&& 0x00000F0F)) s

/-- 10_state.md R26: write 1 to clear, at any time. -/
def Obligations.StatusWriteClearsDoneAndOvr : Prop :=
  ∀ (s : State) (v : Word), hostAccess (memWrite s.cfg 0x008 v) s = { s with
    done := if v.getLsbD 1 = true then false else s.done,
    ovr := if v.getLsbD 3 = true then false else s.ovr,
    resp := some .writeDone }

/-- 10_state.md R42, 60_exceptions.md R153: when the interrupt line is up. -/
def Obligations.IrqFollowsDoneAndEnable : Prop :=
  ∀ s : State,
    (irq s = true ↔ s.ie = true ∧ s.done = true) ∧
    (∀ i t, exec i s = .next t → irq t = s.ie) ∧
    (∀ v, s.busy = false → irq (hostAccess (memWrite s.cfg 0x00C v) s) = false) ∧
    (∀ v : Word, v.getLsbD 1 = true → irq (hostAccess (memWrite s.cfg 0x008 v) s) = false) ∧
    (∀ v : Word, v.getLsbD 0 = false → irq (hostAccess (memWrite s.cfg 0x004 v) s) = false ∧
      (hostAccess (memWrite s.cfg 0x004 v) s).done = s.done)

/-- 10_state.md R18, R19, R29 to R32, R37: the scalar registers and the schedule window of an idle engine. -/
def Obligations.IdleScalarRegistersReadAndWrite : Prop :=
  ∀ (s : State) (v : Word), s.busy = false →
    let rd (off : Nat) (w : Word) := hostAccess (memRead s.cfg off) s = { s with resp := some (.readData w) }
    let wr (off : Nat) (t : State) := hostAccess (memWrite s.cfg off v) s = { t with resp := some .writeDone }
    (rd 0x000 0x41455331 ∧ wr 0x000 s) ∧
    (rd 0x004 (if s.ie = true then 1 else 0) ∧ wr 0x004 { s with ie := v.getLsbD 0 }) ∧
    rd 0x00C 0 ∧
    (rd 0x010 s.len ∧ wr 0x010 { s with len := v }) ∧
    (rd 0x014 (s.gfA.setWidth 32) ∧ wr 0x014 { s with gfA := v.setWidth 8 }) ∧
    (rd 0x018 (s.gfB.setWidth 32) ∧ wr 0x018 { s with gfB := v.setWidth 8 }) ∧
    (rd 0x01C (s.gfR.setWidth 32) ∧ wr 0x01C s) ∧
    ∀ i : Fin 44, wr (0x100 + 4 * i.val) s ∧ rd (0x100 + 4 * i.val)
      (s.rk[4 * i.val] ++ s.rk[4 * i.val + 1] ++ s.rk[4 * i.val + 2] ++ s.rk[4 * i.val + 3])

/-- 10_state.md R33 to R36, 20_memory.md R53: in every idle state, KEY_VALID 0 or 1, word n of KEY, IV or BLK reads as
its four bytes, the lowest index in bits 31:24; a write sets those four bytes, leaves the other twelve, and reads back;
a KEY write clears KEY_VALID. -/
def Obligations.BlockRegisterWritesSetFourBytes : Prop :=
  ∀ (s : State) (n : Fin 4) (v : Word), s.busy = false →
    let shows (off : Nat) (a : Block) : Prop := hostAccess (memRead s.cfg off) s = { s with
      resp := some (.readData (a[4 * n.val] ++ a[4 * n.val + 1] ++ a[4 * n.val + 2] ++ a[4 * n.val + 3])) }
    let lanes (old new : Block) : Prop := ∀ k : Fin 16,
      new[k] = if k.val / 4 = n.val then v.extractLsb' (24 - 8 * (k.val % 4)) 8 else old[k]
    let reads (off : Nat) (t : State) : Prop :=
      hostAccess (memRead s.cfg off) { t with resp := some .writeDone } = { t with resp := some (.readData v) }
    (shows (0x020 + 4 * n.val) s.key ∧ shows (0x030 + 4 * n.val) s.iv ∧ shows (0x040 + 4 * n.val) s.blk) ∧
    (∃ b, lanes s.key b ∧ reads (0x020 + 4 * n.val) { s with key := b, keyValid := false } ∧
      hostAccess (memWrite s.cfg (0x020 + 4 * n.val) v) s =
        { s with key := b, keyValid := false, resp := some .writeDone }) ∧
    (∃ b, lanes s.iv b ∧ reads (0x030 + 4 * n.val) { s with iv := b } ∧
      hostAccess (memWrite s.cfg (0x030 + 4 * n.val) v) s = { s with iv := b, resp := some .writeDone }) ∧
    (∃ b, lanes s.blk b ∧ reads (0x040 + 4 * n.val) { s with blk := b } ∧
      hostAccess (memWrite s.cfg (0x040 + 4 * n.val) v) s = { s with blk := b, resp := some .writeDone })

/-- 10_state.md R38, 20_memory.md R53, R54 (R54 is marked derived in the spec): in every idle state a read of the BUF
window shows its four bytes, whatever wrote them, and a write sets exactly its four bytes, and reads back. -/
def Obligations.BufferWindowWriteSetsFourBytes : Prop :=
  ∀ (s : State) (k : Nat) (v : Word), s.cfg.wf → s.busy = false → 4 * k < s.cfg.bufSize →
    let t := hostAccess (memWrite s.cfg (0x1000 + 4 * k) v) s
    hostAccess (memRead s.cfg (0x1000 + 4 * k)) s = { s with resp := some (.readData
      (bufByte s (4 * k) ++ bufByte s (4 * k + 1) ++ bufByte s (4 * k + 2) ++ bufByte s (4 * k + 3))) } ∧
    t = { s with mem := t.mem, resp := some .writeDone } ∧
    (∀ j, bufByte t j = if j / 4 = k then v.extractLsb' (24 - 8 * (j % 4)) 8 else bufByte s j) ∧
    (hostAccess (memRead s.cfg (0x1000 + 4 * k)) t).resp = some (.readData v)

/-! ### Reset -/

/-- 70_reset_and_hazards.md R163: what a reset turn leaves, from any state, a command pending or not. -/
def Obligations.ResetTurnLeavesTheStatedValues : Prop :=
  ∀ (s : State) (rest : List Turn), s.cfg.wf → s.agenda = .reset :: rest → ∃ t, step s = .next t ∧
    t.ie = false ∧ t.busy = false ∧ t.done = false ∧ t.keyValid = false ∧ t.ovr = false ∧ t.err = 0 ∧
    t.pending = none ∧ t.len = 0 ∧ t.gfA = 0 ∧ t.gfB = 0 ∧ t.gfR = 0 ∧
    (∀ i : Fin 16, t.key[i] = 0 ∧ t.iv[i] = 0 ∧ t.blk[i] = 0) ∧ (∀ i : Fin 176, t.rk[i] = 0) ∧
    irq t = false ∧ statusWord t = 0 ∧
    (hostAccess (memRead t.cfg 0x000) t).resp = some (.readData 0x41455331)

/-- The model's own convention (log 1): after a reset turn every byte of BUF holds the free value of a draw that is not
the draw before. -/
def Obligations.ResetTurnDrawsTheBufferAnew : Prop :=
  ∀ (s : State) (rest : List Turn), s.cfg.wf → s.agenda = .reset :: rest → ∃ t, step s = .next t ∧
    t.cfg = s.cfg ∧ t.agenda = rest ∧ t.mem.draw ≠ s.mem.draw ∧
    ∀ i, i < s.cfg.bufSize → bufByte t i = Config.freeBufByte t.mem.draw i

/-- 70_reset_and_hazards.md R166, which the spec marks derived: after reset RK is no schedule of the all-zero key. -/
def Obligations.ResetScheduleIsNotOfTheZeroKey : Prop :=
  State.reset.key = Vector.replicate 16 0 ∧ scheduleWord (keyExpansion State.reset.key) 4 = 0x62636363 ∧
  State.reset.rk ≠ keyExpansion State.reset.key ∧ State.reset.keyValid = false

/-! ### The command in progress -/

/-- 20_memory.md R58, "no host access can observe or disturb a command in progress": whatever accesses come between
issue and completion, the outcome is that of completing at once, but for CTRL.IE, OVR and the answer. -/
def Obligations.OutcomeDoesNotDependOnLatency : Prop :=
  ∀ (s : State) (as : List Access), s.busy = true → s.pending.isSome = true →
    ∃ t r, engineTurn s = .next t ∧ engineTurn (hostAccesses as s) = .next r ∧
      r = { t with ie := (hostAccesses as s).ie, ovr := (hostAccesses as s).ovr, resp := (hostAccesses as s).resp }

/-- 47_system.md R137, under the model's convention of log 3, that the engine has the turn when the agenda is empty (its
weak fairness): with only host accesses still to come, the pending command is completed after them. -/
def Obligations.PendingCommandCompletes : Prop :=
  ∀ (s : State) (as : List Access), s.Inv → s.busy = true → s.agenda = as.map .host →
    ∃ t r, Sys2Proof.core.run (as.length + 1) s = .next t ∧ engineTurn s = .next r ∧
      t.busy = false ∧ t.done = true ∧ t.pending = none ∧ t.err = r.err ∧ t.len = r.len ∧ t.gfR = r.gfR ∧
      t.iv = r.iv ∧ t.blk = r.blk ∧ t.rk = r.rk ∧ t.mem = r.mem

/-- 20_memory.md R58: while busy, the answer to any host access is the same whatever the data registers, the schedule,
the buffer and the latch hold. -/
def Obligations.BusyAnswersRevealNoData : Prop :=
  ∀ (s t : State) (a : Access), s.busy = true → t.busy = true → s.cfg = t.cfg → s.ie = t.ie → s.done = t.done →
    s.keyValid = t.keyValid → s.ovr = t.ovr → s.err = t.err → (hostAccess a s).resp = (hostAccess a t).resp
end

