-- ==== Sys2Proof/Laws/Memory.lean ====
section
/-! SUPPORT. BUF: read after write, frames, and that every memory operation keeps the canonical form. -/

namespace Sys2Proof.Machine

theorem findCell_insertCell_same (l : List Host.Cell) (i : Nat) (v : Byte) :
    findCell (insertCell l i v) i = some v := by
  induction l with
  | nil => simp [insertCell, findCell]
  | cons c rest ih =>
    obtain ⟨a, w⟩ := c
    unfold insertCell
    split
    · simp [findCell]
    · split
      · simp [findCell]
      · rename_i _ hne
        simp [findCell, ih, Ne.symm hne]

theorem findCell_insertCell_other (l : List Host.Cell) {i j : Nat} (v : Byte) (h : j ≠ i) :
    findCell (insertCell l i v) j = findCell l j := by
  induction l with
  | nil => simp [insertCell, findCell, Ne.symm h]
  | cons c rest ih =>
    obtain ⟨a, w⟩ := c
    unfold insertCell
    split
    · simp [findCell, Ne.symm h]
    · split
      · rename_i _ he
        subst he
        simp [findCell, Ne.symm h]
      · simp [findCell, ih]

theorem mem_insertCell {l : List Host.Cell} {i : Nat} {v : Byte} {c : Host.Cell}
    (h : c ∈ insertCell l i v) : c = (i, v) ∨ c ∈ l := by
  induction l with
  | nil => simpa [insertCell] using h
  | cons d rest ih =>
    obtain ⟨a, w⟩ := d
    unfold insertCell at h
    split at h
    · simpa using h
    · split at h
      · simp only [List.mem_cons] at h ⊢
        rcases h with h | h <;> simp [h]
      · simp only [List.mem_cons] at h ⊢
        rcases h with h | h
        · simp [h]
        · rcases ih h with h | h <;> simp [h]

theorem insertCell_rising {l : List Host.Cell} (i : Nat) (v : Byte)
    (h : l.Pairwise (fun a b => a.1 < b.1)) : (insertCell l i v).Pairwise (fun a b => a.1 < b.1) := by
  induction l with
  | nil => simp [insertCell]
  | cons d rest ih =>
    obtain ⟨a, w⟩ := d
    obtain ⟨hd, ht⟩ := List.pairwise_cons.mp h
    unfold insertCell
    split
    · rename_i hlt
      refine List.pairwise_cons.mpr ⟨fun c hc => ?_, h⟩
      rcases List.mem_cons.mp hc with rfl | hc
      · exact hlt
      · exact Nat.lt_trans hlt (hd c hc)
    · split
      · rename_i _ he
        subst he
        exact List.pairwise_cons.mpr ⟨hd, ht⟩
      · refine List.pairwise_cons.mpr ⟨fun c hc => ?_, ih ht⟩
        rcases mem_insertCell hc with rfl | hc
        · show a < i
          omega
        · exact hd c hc

@[simp] theorem write_draw (m : Memory) (size i : Nat) (v : Byte) : (m.write size i v).draw = m.draw := by
  unfold Memory.write; split <;> rfl

/-- Reading after one write (BUF[j] after BUF[i] <- v). -/
theorem read_write (m : Memory) (size i j : Nat) (v : Byte) :
    (m.write size i v).read size j = if j = i ∧ i < size then v else m.read size j := by
  unfold Memory.write Memory.read
  by_cases hi : i < size
  · by_cases hj : j = i
    · subst hj; simp [hi, findCell_insertCell_same]
    · simp [hi, hj, findCell_insertCell_other _ _ hj]
  · simp [hi]

theorem write_wf {m : Memory} {size : Nat} (i : Nat) (v : Byte) (h : m.wf size) : (m.write size i v).wf size := by
  unfold Memory.write
  split
  · rename_i hi
    refine ⟨insertCell_rising i v h.1, fun c hc => ?_⟩
    rcases mem_insertCell hc with rfl | hc
    · exact hi
    · exact h.2 c hc
  · exact h

theorem writeBytes_wf {size : Nat} (vs : List Byte) : ∀ {m : Memory} (k : Nat), m.wf size →
    (m.writeBytes size k vs).wf size := by
  induction vs with
  | nil => intro m k h; exact h
  | cons v vs ih => intro m k h; exact ih (k + 1) (write_wf k v h)

@[simp] theorem writeBytes_draw (size : Nat) (vs : List Byte) : ∀ (m : Memory) (k : Nat),
    (m.writeBytes size k vs).draw = m.draw := by
  induction vs with
  | nil => intro m k; rfl
  | cons v vs ih => intro m k; simp [Memory.writeBytes, ih]

/-- A byte outside the written range reads as before. -/
theorem read_writeBytes_outside (size : Nat) (vs : List Byte) : ∀ (m : Memory) (k j : Nat),
    (j < k ∨ k + vs.length ≤ j) → (m.writeBytes size k vs).read size j = m.read size j := by
  induction vs with
  | nil => intro m k j _; rfl
  | cons v vs ih =>
    intro m k j h
    simp only [List.length_cons] at h
    have hne : ¬(j = k ∧ k < size) := by omega
    rw [Memory.writeBytes, ih _ _ _ (by omega), read_write, if_neg hne]

/-- A byte inside the written range reads as the byte written, wherever BUF has a byte. -/
theorem read_writeBytes_inside (size : Nat) (vs : List Byte) : ∀ (m : Memory) (k j : Nat) (hj : j < vs.length),
    k + j < size → (m.writeBytes size k vs).read size (k + j) = vs[j] := by
  induction vs with
  | nil => intro m k j hj; simp at hj
  | cons v vs ih =>
    intro m k j hj hs
    cases j with
    | zero =>
      rw [Memory.writeBytes, read_writeBytes_outside _ _ _ _ _ (by omega), read_write]
      simp only [Nat.add_zero, List.getElem_cons_zero]
      rw [if_pos ⟨trivial, by omega⟩]
    | succ j =>
      have hj' : j < vs.length := by simpa using hj
      rw [Memory.writeBytes, show k + (j + 1) = k + 1 + j by omega, ih _ _ _ hj' (by omega)]
      simp

theorem read_beyond (m : Memory) {size i : Nat} (h : size ≤ i) : m.read size i = 0 := by
  unfold Memory.read; rw [if_neg (by omega)]

/-- An unwritten byte holds the free value of the draw in force. -/
theorem read_unlisted {m : Memory} {size i : Nat} (hi : i < size) (h : findCell m.cells i = none) :
    m.read size i = Config.freeBufByte m.draw i := by
  unfold Memory.read; rw [if_pos hi, h, Option.getD_none]

@[simp] theorem readBlock_getElem (m : Memory) (size b j : Nat) (hj : j < 16) :
    (m.readBlock size b)[j] = m.read size (16 * b + j) := by
  simp [Memory.readBlock]

theorem writeBlock_wf {m : Memory} {size : Nat} (b : Nat) (v : Block) (h : m.wf size) :
    (m.writeBlock size b v).wf size := writeBytes_wf _ _ h

theorem read_writeBlock_outside (m : Memory) (size b j : Nat) (v : Block) (h : j < 16 * b ∨ 16 * b + 16 ≤ j) :
    (m.writeBlock size b v).read size j = m.read size j :=
  read_writeBytes_outside _ _ _ _ _ (by simpa using h)

theorem readBlock_writeBlock_same (m : Memory) (size b : Nat) (v : Block) (h : 16 * b + 16 ≤ size) :
    (m.writeBlock size b v).readBlock size b = v := by
  refine Vector.ext fun j hj => ?_
  rw [readBlock_getElem]
  have := read_writeBytes_inside size v.toList m (16 * b) j (by simpa using hj) (by omega)
  simpa [Memory.writeBlock] using this

theorem readBlock_writeBlock_other (m : Memory) (size : Nat) {b c : Nat} (v : Block) (h : c ≠ b) :
    (m.writeBlock size b v).readBlock size c = m.readBlock size c := by
  refine Vector.ext fun j hj => ?_
  rw [readBlock_getElem, readBlock_getElem, read_writeBlock_outside _ _ _ _ _ (by omega)]

theorem writeWord_wf {m : Memory} {size : Nat} (k : Nat) (v : Word) (h : m.wf size) :
    (m.writeWord size k v).wf size := writeBytes_wf _ _ h

theorem empty_wf (size draw : Nat) : Memory.wf size { draw := draw, cells := [] } := by
  simp [Memory.wf]

end Sys2Proof.Machine
end

