-- ==== Sys2Proof/Laws/State.lean ====
section
/-! SUPPORT. One lemma per field per named update of State, each true by rfl. -/

namespace Sys2Proof.Machine

/-! ### setGfR -/

@[simp] theorem setGfR_cfg (r : Byte) (s : State) : (setGfR r s).cfg = s.cfg := rfl
@[simp] theorem setGfR_ie (r : Byte) (s : State) : (setGfR r s).ie = s.ie := rfl
@[simp] theorem setGfR_busy (r : Byte) (s : State) : (setGfR r s).busy = s.busy := rfl
@[simp] theorem setGfR_done (r : Byte) (s : State) : (setGfR r s).done = s.done := rfl
@[simp] theorem setGfR_keyValid (r : Byte) (s : State) : (setGfR r s).keyValid = s.keyValid := rfl
@[simp] theorem setGfR_ovr (r : Byte) (s : State) : (setGfR r s).ovr = s.ovr := rfl
@[simp] theorem setGfR_err (r : Byte) (s : State) : (setGfR r s).err = s.err := rfl
@[simp] theorem setGfR_pending (r : Byte) (s : State) : (setGfR r s).pending = s.pending := rfl
@[simp] theorem setGfR_len (r : Byte) (s : State) : (setGfR r s).len = s.len := rfl
@[simp] theorem setGfR_gfA (r : Byte) (s : State) : (setGfR r s).gfA = s.gfA := rfl
@[simp] theorem setGfR_gfB (r : Byte) (s : State) : (setGfR r s).gfB = s.gfB := rfl
@[simp] theorem setGfR_gfR (r : Byte) (s : State) : (setGfR r s).gfR = r := rfl
@[simp] theorem setGfR_key (r : Byte) (s : State) : (setGfR r s).key = s.key := rfl
@[simp] theorem setGfR_iv (r : Byte) (s : State) : (setGfR r s).iv = s.iv := rfl
@[simp] theorem setGfR_blk (r : Byte) (s : State) : (setGfR r s).blk = s.blk := rfl
@[simp] theorem setGfR_rk (r : Byte) (s : State) : (setGfR r s).rk = s.rk := rfl
@[simp] theorem setGfR_mem (r : Byte) (s : State) : (setGfR r s).mem = s.mem := rfl
@[simp] theorem setGfR_agenda (r : Byte) (s : State) : (setGfR r s).agenda = s.agenda := rfl
@[simp] theorem setGfR_resp (r : Byte) (s : State) : (setGfR r s).resp = s.resp := rfl

/-! ### setBlk -/

@[simp] theorem setBlk_cfg (b : Block) (s : State) : (setBlk b s).cfg = s.cfg := rfl
@[simp] theorem setBlk_ie (b : Block) (s : State) : (setBlk b s).ie = s.ie := rfl
@[simp] theorem setBlk_busy (b : Block) (s : State) : (setBlk b s).busy = s.busy := rfl
@[simp] theorem setBlk_done (b : Block) (s : State) : (setBlk b s).done = s.done := rfl
@[simp] theorem setBlk_keyValid (b : Block) (s : State) : (setBlk b s).keyValid = s.keyValid := rfl
@[simp] theorem setBlk_ovr (b : Block) (s : State) : (setBlk b s).ovr = s.ovr := rfl
@[simp] theorem setBlk_err (b : Block) (s : State) : (setBlk b s).err = s.err := rfl
@[simp] theorem setBlk_pending (b : Block) (s : State) : (setBlk b s).pending = s.pending := rfl
@[simp] theorem setBlk_len (b : Block) (s : State) : (setBlk b s).len = s.len := rfl
@[simp] theorem setBlk_gfA (b : Block) (s : State) : (setBlk b s).gfA = s.gfA := rfl
@[simp] theorem setBlk_gfB (b : Block) (s : State) : (setBlk b s).gfB = s.gfB := rfl
@[simp] theorem setBlk_gfR (b : Block) (s : State) : (setBlk b s).gfR = s.gfR := rfl
@[simp] theorem setBlk_key (b : Block) (s : State) : (setBlk b s).key = s.key := rfl
@[simp] theorem setBlk_iv (b : Block) (s : State) : (setBlk b s).iv = s.iv := rfl
@[simp] theorem setBlk_blk (b : Block) (s : State) : (setBlk b s).blk = b := rfl
@[simp] theorem setBlk_rk (b : Block) (s : State) : (setBlk b s).rk = s.rk := rfl
@[simp] theorem setBlk_mem (b : Block) (s : State) : (setBlk b s).mem = s.mem := rfl
@[simp] theorem setBlk_agenda (b : Block) (s : State) : (setBlk b s).agenda = s.agenda := rfl
@[simp] theorem setBlk_resp (b : Block) (s : State) : (setBlk b s).resp = s.resp := rfl

/-! ### setSchedule -/

@[simp] theorem setSchedule_cfg (w : Schedule) (s : State) : (setSchedule w s).cfg = s.cfg := rfl
@[simp] theorem setSchedule_ie (w : Schedule) (s : State) : (setSchedule w s).ie = s.ie := rfl
@[simp] theorem setSchedule_busy (w : Schedule) (s : State) : (setSchedule w s).busy = s.busy := rfl
@[simp] theorem setSchedule_done (w : Schedule) (s : State) : (setSchedule w s).done = s.done := rfl
@[simp] theorem setSchedule_keyValid (w : Schedule) (s : State) : (setSchedule w s).keyValid = true := rfl
@[simp] theorem setSchedule_ovr (w : Schedule) (s : State) : (setSchedule w s).ovr = s.ovr := rfl
@[simp] theorem setSchedule_err (w : Schedule) (s : State) : (setSchedule w s).err = s.err := rfl
@[simp] theorem setSchedule_pending (w : Schedule) (s : State) : (setSchedule w s).pending = s.pending := rfl
@[simp] theorem setSchedule_len (w : Schedule) (s : State) : (setSchedule w s).len = s.len := rfl
@[simp] theorem setSchedule_gfA (w : Schedule) (s : State) : (setSchedule w s).gfA = s.gfA := rfl
@[simp] theorem setSchedule_gfB (w : Schedule) (s : State) : (setSchedule w s).gfB = s.gfB := rfl
@[simp] theorem setSchedule_gfR (w : Schedule) (s : State) : (setSchedule w s).gfR = s.gfR := rfl
@[simp] theorem setSchedule_key (w : Schedule) (s : State) : (setSchedule w s).key = s.key := rfl
@[simp] theorem setSchedule_iv (w : Schedule) (s : State) : (setSchedule w s).iv = s.iv := rfl
@[simp] theorem setSchedule_blk (w : Schedule) (s : State) : (setSchedule w s).blk = s.blk := rfl
@[simp] theorem setSchedule_rk (w : Schedule) (s : State) : (setSchedule w s).rk = w := rfl
@[simp] theorem setSchedule_mem (w : Schedule) (s : State) : (setSchedule w s).mem = s.mem := rfl
@[simp] theorem setSchedule_agenda (w : Schedule) (s : State) : (setSchedule w s).agenda = s.agenda := rfl
@[simp] theorem setSchedule_resp (w : Schedule) (s : State) : (setSchedule w s).resp = s.resp := rfl

/-! ### setLen -/

@[simp] theorem setLen_cfg (n : Nat) (s : State) : (setLen n s).cfg = s.cfg := rfl
@[simp] theorem setLen_ie (n : Nat) (s : State) : (setLen n s).ie = s.ie := rfl
@[simp] theorem setLen_busy (n : Nat) (s : State) : (setLen n s).busy = s.busy := rfl
@[simp] theorem setLen_done (n : Nat) (s : State) : (setLen n s).done = s.done := rfl
@[simp] theorem setLen_keyValid (n : Nat) (s : State) : (setLen n s).keyValid = s.keyValid := rfl
@[simp] theorem setLen_ovr (n : Nat) (s : State) : (setLen n s).ovr = s.ovr := rfl
@[simp] theorem setLen_err (n : Nat) (s : State) : (setLen n s).err = s.err := rfl
@[simp] theorem setLen_pending (n : Nat) (s : State) : (setLen n s).pending = s.pending := rfl
@[simp] theorem setLen_len (n : Nat) (s : State) : (setLen n s).len = BitVec.ofNat 32 n := rfl
@[simp] theorem setLen_gfA (n : Nat) (s : State) : (setLen n s).gfA = s.gfA := rfl
@[simp] theorem setLen_gfB (n : Nat) (s : State) : (setLen n s).gfB = s.gfB := rfl
@[simp] theorem setLen_gfR (n : Nat) (s : State) : (setLen n s).gfR = s.gfR := rfl
@[simp] theorem setLen_key (n : Nat) (s : State) : (setLen n s).key = s.key := rfl
@[simp] theorem setLen_iv (n : Nat) (s : State) : (setLen n s).iv = s.iv := rfl
@[simp] theorem setLen_blk (n : Nat) (s : State) : (setLen n s).blk = s.blk := rfl
@[simp] theorem setLen_rk (n : Nat) (s : State) : (setLen n s).rk = s.rk := rfl
@[simp] theorem setLen_mem (n : Nat) (s : State) : (setLen n s).mem = s.mem := rfl
@[simp] theorem setLen_agenda (n : Nat) (s : State) : (setLen n s).agenda = s.agenda := rfl
@[simp] theorem setLen_resp (n : Nat) (s : State) : (setLen n s).resp = s.resp := rfl

/-! ### setIv -/

@[simp] theorem setIv_cfg (b : Block) (s : State) : (setIv b s).cfg = s.cfg := rfl
@[simp] theorem setIv_ie (b : Block) (s : State) : (setIv b s).ie = s.ie := rfl
@[simp] theorem setIv_busy (b : Block) (s : State) : (setIv b s).busy = s.busy := rfl
@[simp] theorem setIv_done (b : Block) (s : State) : (setIv b s).done = s.done := rfl
@[simp] theorem setIv_keyValid (b : Block) (s : State) : (setIv b s).keyValid = s.keyValid := rfl
@[simp] theorem setIv_ovr (b : Block) (s : State) : (setIv b s).ovr = s.ovr := rfl
@[simp] theorem setIv_err (b : Block) (s : State) : (setIv b s).err = s.err := rfl
@[simp] theorem setIv_pending (b : Block) (s : State) : (setIv b s).pending = s.pending := rfl
@[simp] theorem setIv_len (b : Block) (s : State) : (setIv b s).len = s.len := rfl
@[simp] theorem setIv_gfA (b : Block) (s : State) : (setIv b s).gfA = s.gfA := rfl
@[simp] theorem setIv_gfB (b : Block) (s : State) : (setIv b s).gfB = s.gfB := rfl
@[simp] theorem setIv_gfR (b : Block) (s : State) : (setIv b s).gfR = s.gfR := rfl
@[simp] theorem setIv_key (b : Block) (s : State) : (setIv b s).key = s.key := rfl
@[simp] theorem setIv_iv (b : Block) (s : State) : (setIv b s).iv = b := rfl
@[simp] theorem setIv_blk (b : Block) (s : State) : (setIv b s).blk = s.blk := rfl
@[simp] theorem setIv_rk (b : Block) (s : State) : (setIv b s).rk = s.rk := rfl
@[simp] theorem setIv_mem (b : Block) (s : State) : (setIv b s).mem = s.mem := rfl
@[simp] theorem setIv_agenda (b : Block) (s : State) : (setIv b s).agenda = s.agenda := rfl
@[simp] theorem setIv_resp (b : Block) (s : State) : (setIv b s).resp = s.resp := rfl

/-! ### setMem -/

@[simp] theorem setMem_cfg (m : Memory) (s : State) : (setMem m s).cfg = s.cfg := rfl
@[simp] theorem setMem_ie (m : Memory) (s : State) : (setMem m s).ie = s.ie := rfl
@[simp] theorem setMem_busy (m : Memory) (s : State) : (setMem m s).busy = s.busy := rfl
@[simp] theorem setMem_done (m : Memory) (s : State) : (setMem m s).done = s.done := rfl
@[simp] theorem setMem_keyValid (m : Memory) (s : State) : (setMem m s).keyValid = s.keyValid := rfl
@[simp] theorem setMem_ovr (m : Memory) (s : State) : (setMem m s).ovr = s.ovr := rfl
@[simp] theorem setMem_err (m : Memory) (s : State) : (setMem m s).err = s.err := rfl
@[simp] theorem setMem_pending (m : Memory) (s : State) : (setMem m s).pending = s.pending := rfl
@[simp] theorem setMem_len (m : Memory) (s : State) : (setMem m s).len = s.len := rfl
@[simp] theorem setMem_gfA (m : Memory) (s : State) : (setMem m s).gfA = s.gfA := rfl
@[simp] theorem setMem_gfB (m : Memory) (s : State) : (setMem m s).gfB = s.gfB := rfl
@[simp] theorem setMem_gfR (m : Memory) (s : State) : (setMem m s).gfR = s.gfR := rfl
@[simp] theorem setMem_key (m : Memory) (s : State) : (setMem m s).key = s.key := rfl
@[simp] theorem setMem_iv (m : Memory) (s : State) : (setMem m s).iv = s.iv := rfl
@[simp] theorem setMem_blk (m : Memory) (s : State) : (setMem m s).blk = s.blk := rfl
@[simp] theorem setMem_rk (m : Memory) (s : State) : (setMem m s).rk = s.rk := rfl
@[simp] theorem setMem_mem (m : Memory) (s : State) : (setMem m s).mem = m := rfl
@[simp] theorem setMem_agenda (m : Memory) (s : State) : (setMem m s).agenda = s.agenda := rfl
@[simp] theorem setMem_resp (m : Memory) (s : State) : (setMem m s).resp = s.resp := rfl

/-! ### setOvr -/

@[simp] theorem setOvr_cfg (s : State) : (setOvr s).cfg = s.cfg := rfl
@[simp] theorem setOvr_ie (s : State) : (setOvr s).ie = s.ie := rfl
@[simp] theorem setOvr_busy (s : State) : (setOvr s).busy = s.busy := rfl
@[simp] theorem setOvr_done (s : State) : (setOvr s).done = s.done := rfl
@[simp] theorem setOvr_keyValid (s : State) : (setOvr s).keyValid = s.keyValid := rfl
@[simp] theorem setOvr_ovr (s : State) : (setOvr s).ovr = true := rfl
@[simp] theorem setOvr_err (s : State) : (setOvr s).err = s.err := rfl
@[simp] theorem setOvr_pending (s : State) : (setOvr s).pending = s.pending := rfl
@[simp] theorem setOvr_len (s : State) : (setOvr s).len = s.len := rfl
@[simp] theorem setOvr_gfA (s : State) : (setOvr s).gfA = s.gfA := rfl
@[simp] theorem setOvr_gfB (s : State) : (setOvr s).gfB = s.gfB := rfl
@[simp] theorem setOvr_gfR (s : State) : (setOvr s).gfR = s.gfR := rfl
@[simp] theorem setOvr_key (s : State) : (setOvr s).key = s.key := rfl
@[simp] theorem setOvr_iv (s : State) : (setOvr s).iv = s.iv := rfl
@[simp] theorem setOvr_blk (s : State) : (setOvr s).blk = s.blk := rfl
@[simp] theorem setOvr_rk (s : State) : (setOvr s).rk = s.rk := rfl
@[simp] theorem setOvr_mem (s : State) : (setOvr s).mem = s.mem := rfl
@[simp] theorem setOvr_agenda (s : State) : (setOvr s).agenda = s.agenda := rfl
@[simp] theorem setOvr_resp (s : State) : (setOvr s).resp = s.resp := rfl

/-! ### issue -/

@[simp] theorem issue_cfg (v : Word) (s : State) : (issue v s).cfg = s.cfg := rfl
@[simp] theorem issue_ie (v : Word) (s : State) : (issue v s).ie = s.ie := rfl
@[simp] theorem issue_busy (v : Word) (s : State) : (issue v s).busy = true := rfl
@[simp] theorem issue_done (v : Word) (s : State) : (issue v s).done = false := rfl
@[simp] theorem issue_keyValid (v : Word) (s : State) : (issue v s).keyValid = s.keyValid := rfl
@[simp] theorem issue_ovr (v : Word) (s : State) : (issue v s).ovr = s.ovr := rfl
@[simp] theorem issue_err (v : Word) (s : State) : (issue v s).err = errNone := rfl
@[simp] theorem issue_pending (v : Word) (s : State) : (issue v s).pending = some v := rfl
@[simp] theorem issue_len (v : Word) (s : State) : (issue v s).len = s.len := rfl
@[simp] theorem issue_gfA (v : Word) (s : State) : (issue v s).gfA = s.gfA := rfl
@[simp] theorem issue_gfB (v : Word) (s : State) : (issue v s).gfB = s.gfB := rfl
@[simp] theorem issue_gfR (v : Word) (s : State) : (issue v s).gfR = s.gfR := rfl
@[simp] theorem issue_key (v : Word) (s : State) : (issue v s).key = s.key := rfl
@[simp] theorem issue_iv (v : Word) (s : State) : (issue v s).iv = s.iv := rfl
@[simp] theorem issue_blk (v : Word) (s : State) : (issue v s).blk = s.blk := rfl
@[simp] theorem issue_rk (v : Word) (s : State) : (issue v s).rk = s.rk := rfl
@[simp] theorem issue_mem (v : Word) (s : State) : (issue v s).mem = s.mem := rfl
@[simp] theorem issue_agenda (v : Word) (s : State) : (issue v s).agenda = s.agenda := rfl
@[simp] theorem issue_resp (v : Word) (s : State) : (issue v s).resp = s.resp := rfl

/-! ### finish -/

@[simp] theorem finish_cfg (c : ErrCode) (s : State) : (finish c s).cfg = s.cfg := rfl
@[simp] theorem finish_ie (c : ErrCode) (s : State) : (finish c s).ie = s.ie := rfl
@[simp] theorem finish_busy (c : ErrCode) (s : State) : (finish c s).busy = false := rfl
@[simp] theorem finish_done (c : ErrCode) (s : State) : (finish c s).done = true := rfl
@[simp] theorem finish_keyValid (c : ErrCode) (s : State) : (finish c s).keyValid = s.keyValid := rfl
@[simp] theorem finish_ovr (c : ErrCode) (s : State) : (finish c s).ovr = s.ovr := rfl
@[simp] theorem finish_err (c : ErrCode) (s : State) : (finish c s).err = c := rfl
@[simp] theorem finish_pending (c : ErrCode) (s : State) : (finish c s).pending = none := rfl
@[simp] theorem finish_len (c : ErrCode) (s : State) : (finish c s).len = s.len := rfl
@[simp] theorem finish_gfA (c : ErrCode) (s : State) : (finish c s).gfA = s.gfA := rfl
@[simp] theorem finish_gfB (c : ErrCode) (s : State) : (finish c s).gfB = s.gfB := rfl
@[simp] theorem finish_gfR (c : ErrCode) (s : State) : (finish c s).gfR = s.gfR := rfl
@[simp] theorem finish_key (c : ErrCode) (s : State) : (finish c s).key = s.key := rfl
@[simp] theorem finish_iv (c : ErrCode) (s : State) : (finish c s).iv = s.iv := rfl
@[simp] theorem finish_blk (c : ErrCode) (s : State) : (finish c s).blk = s.blk := rfl
@[simp] theorem finish_rk (c : ErrCode) (s : State) : (finish c s).rk = s.rk := rfl
@[simp] theorem finish_mem (c : ErrCode) (s : State) : (finish c s).mem = s.mem := rfl
@[simp] theorem finish_agenda (c : ErrCode) (s : State) : (finish c s).agenda = s.agenda := rfl
@[simp] theorem finish_resp (c : ErrCode) (s : State) : (finish c s).resp = s.resp := rfl

/-! ### writeStatus -/

@[simp] theorem writeStatus_cfg (v : Word) (s : State) : (writeStatus v s).cfg = s.cfg := rfl
@[simp] theorem writeStatus_ie (v : Word) (s : State) : (writeStatus v s).ie = s.ie := rfl
@[simp] theorem writeStatus_busy (v : Word) (s : State) : (writeStatus v s).busy = s.busy := rfl
@[simp] theorem writeStatus_done (v : Word) (s : State) : (writeStatus v s).done = (s.done && !v.getLsbD 1) := rfl
@[simp] theorem writeStatus_keyValid (v : Word) (s : State) : (writeStatus v s).keyValid = s.keyValid := rfl
@[simp] theorem writeStatus_ovr (v : Word) (s : State) : (writeStatus v s).ovr = (s.ovr && !v.getLsbD 3) := rfl
@[simp] theorem writeStatus_err (v : Word) (s : State) : (writeStatus v s).err = s.err := rfl
@[simp] theorem writeStatus_pending (v : Word) (s : State) : (writeStatus v s).pending = s.pending := rfl
@[simp] theorem writeStatus_len (v : Word) (s : State) : (writeStatus v s).len = s.len := rfl
@[simp] theorem writeStatus_gfA (v : Word) (s : State) : (writeStatus v s).gfA = s.gfA := rfl
@[simp] theorem writeStatus_gfB (v : Word) (s : State) : (writeStatus v s).gfB = s.gfB := rfl
@[simp] theorem writeStatus_gfR (v : Word) (s : State) : (writeStatus v s).gfR = s.gfR := rfl
@[simp] theorem writeStatus_key (v : Word) (s : State) : (writeStatus v s).key = s.key := rfl
@[simp] theorem writeStatus_iv (v : Word) (s : State) : (writeStatus v s).iv = s.iv := rfl
@[simp] theorem writeStatus_blk (v : Word) (s : State) : (writeStatus v s).blk = s.blk := rfl
@[simp] theorem writeStatus_rk (v : Word) (s : State) : (writeStatus v s).rk = s.rk := rfl
@[simp] theorem writeStatus_mem (v : Word) (s : State) : (writeStatus v s).mem = s.mem := rfl
@[simp] theorem writeStatus_agenda (v : Word) (s : State) : (writeStatus v s).agenda = s.agenda := rfl
@[simp] theorem writeStatus_resp (v : Word) (s : State) : (writeStatus v s).resp = s.resp := rfl

/-! ### writeCtrl -/

@[simp] theorem writeCtrl_cfg (v : Word) (s : State) : (writeCtrl v s).cfg = s.cfg := rfl
@[simp] theorem writeCtrl_ie (v : Word) (s : State) : (writeCtrl v s).ie = v.getLsbD 0 := rfl
@[simp] theorem writeCtrl_busy (v : Word) (s : State) : (writeCtrl v s).busy = s.busy := rfl
@[simp] theorem writeCtrl_done (v : Word) (s : State) : (writeCtrl v s).done = s.done := rfl
@[simp] theorem writeCtrl_keyValid (v : Word) (s : State) : (writeCtrl v s).keyValid = s.keyValid := rfl
@[simp] theorem writeCtrl_ovr (v : Word) (s : State) : (writeCtrl v s).ovr = s.ovr := rfl
@[simp] theorem writeCtrl_err (v : Word) (s : State) : (writeCtrl v s).err = s.err := rfl
@[simp] theorem writeCtrl_pending (v : Word) (s : State) : (writeCtrl v s).pending = s.pending := rfl
@[simp] theorem writeCtrl_len (v : Word) (s : State) : (writeCtrl v s).len = s.len := rfl
@[simp] theorem writeCtrl_gfA (v : Word) (s : State) : (writeCtrl v s).gfA = s.gfA := rfl
@[simp] theorem writeCtrl_gfB (v : Word) (s : State) : (writeCtrl v s).gfB = s.gfB := rfl
@[simp] theorem writeCtrl_gfR (v : Word) (s : State) : (writeCtrl v s).gfR = s.gfR := rfl
@[simp] theorem writeCtrl_key (v : Word) (s : State) : (writeCtrl v s).key = s.key := rfl
@[simp] theorem writeCtrl_iv (v : Word) (s : State) : (writeCtrl v s).iv = s.iv := rfl
@[simp] theorem writeCtrl_blk (v : Word) (s : State) : (writeCtrl v s).blk = s.blk := rfl
@[simp] theorem writeCtrl_rk (v : Word) (s : State) : (writeCtrl v s).rk = s.rk := rfl
@[simp] theorem writeCtrl_mem (v : Word) (s : State) : (writeCtrl v s).mem = s.mem := rfl
@[simp] theorem writeCtrl_agenda (v : Word) (s : State) : (writeCtrl v s).agenda = s.agenda := rfl
@[simp] theorem writeCtrl_resp (v : Word) (s : State) : (writeCtrl v s).resp = s.resp := rfl

/-! ### respond -/

@[simp] theorem respond_cfg (r : Response) (s : State) : (respond r s).cfg = s.cfg := rfl
@[simp] theorem respond_ie (r : Response) (s : State) : (respond r s).ie = s.ie := rfl
@[simp] theorem respond_busy (r : Response) (s : State) : (respond r s).busy = s.busy := rfl
@[simp] theorem respond_done (r : Response) (s : State) : (respond r s).done = s.done := rfl
@[simp] theorem respond_keyValid (r : Response) (s : State) : (respond r s).keyValid = s.keyValid := rfl
@[simp] theorem respond_ovr (r : Response) (s : State) : (respond r s).ovr = s.ovr := rfl
@[simp] theorem respond_err (r : Response) (s : State) : (respond r s).err = s.err := rfl
@[simp] theorem respond_pending (r : Response) (s : State) : (respond r s).pending = s.pending := rfl
@[simp] theorem respond_len (r : Response) (s : State) : (respond r s).len = s.len := rfl
@[simp] theorem respond_gfA (r : Response) (s : State) : (respond r s).gfA = s.gfA := rfl
@[simp] theorem respond_gfB (r : Response) (s : State) : (respond r s).gfB = s.gfB := rfl
@[simp] theorem respond_gfR (r : Response) (s : State) : (respond r s).gfR = s.gfR := rfl
@[simp] theorem respond_key (r : Response) (s : State) : (respond r s).key = s.key := rfl
@[simp] theorem respond_iv (r : Response) (s : State) : (respond r s).iv = s.iv := rfl
@[simp] theorem respond_blk (r : Response) (s : State) : (respond r s).blk = s.blk := rfl
@[simp] theorem respond_rk (r : Response) (s : State) : (respond r s).rk = s.rk := rfl
@[simp] theorem respond_mem (r : Response) (s : State) : (respond r s).mem = s.mem := rfl
@[simp] theorem respond_agenda (r : Response) (s : State) : (respond r s).agenda = s.agenda := rfl
@[simp] theorem respond_resp (r : Response) (s : State) : (respond r s).resp = some r := rfl

/-! ### dropTurn -/

@[simp] theorem dropTurn_cfg (s : State) : (dropTurn s).cfg = s.cfg := rfl
@[simp] theorem dropTurn_ie (s : State) : (dropTurn s).ie = s.ie := rfl
@[simp] theorem dropTurn_busy (s : State) : (dropTurn s).busy = s.busy := rfl
@[simp] theorem dropTurn_done (s : State) : (dropTurn s).done = s.done := rfl
@[simp] theorem dropTurn_keyValid (s : State) : (dropTurn s).keyValid = s.keyValid := rfl
@[simp] theorem dropTurn_ovr (s : State) : (dropTurn s).ovr = s.ovr := rfl
@[simp] theorem dropTurn_err (s : State) : (dropTurn s).err = s.err := rfl
@[simp] theorem dropTurn_pending (s : State) : (dropTurn s).pending = s.pending := rfl
@[simp] theorem dropTurn_len (s : State) : (dropTurn s).len = s.len := rfl
@[simp] theorem dropTurn_gfA (s : State) : (dropTurn s).gfA = s.gfA := rfl
@[simp] theorem dropTurn_gfB (s : State) : (dropTurn s).gfB = s.gfB := rfl
@[simp] theorem dropTurn_gfR (s : State) : (dropTurn s).gfR = s.gfR := rfl
@[simp] theorem dropTurn_key (s : State) : (dropTurn s).key = s.key := rfl
@[simp] theorem dropTurn_iv (s : State) : (dropTurn s).iv = s.iv := rfl
@[simp] theorem dropTurn_blk (s : State) : (dropTurn s).blk = s.blk := rfl
@[simp] theorem dropTurn_rk (s : State) : (dropTurn s).rk = s.rk := rfl
@[simp] theorem dropTurn_mem (s : State) : (dropTurn s).mem = s.mem := rfl
@[simp] theorem dropTurn_agenda (s : State) : (dropTurn s).agenda = s.agenda.tail := rfl
@[simp] theorem dropTurn_resp (s : State) : (dropTurn s).resp = s.resp := rfl

/-! ### resetEngine -/

@[simp] theorem resetEngine_cfg (s : State) : (resetEngine s).cfg = s.cfg := rfl
@[simp] theorem resetEngine_ie (s : State) : (resetEngine s).ie = false := rfl
@[simp] theorem resetEngine_busy (s : State) : (resetEngine s).busy = false := rfl
@[simp] theorem resetEngine_done (s : State) : (resetEngine s).done = false := rfl
@[simp] theorem resetEngine_keyValid (s : State) : (resetEngine s).keyValid = false := rfl
@[simp] theorem resetEngine_ovr (s : State) : (resetEngine s).ovr = false := rfl
@[simp] theorem resetEngine_err (s : State) : (resetEngine s).err = 0 := rfl
@[simp] theorem resetEngine_pending (s : State) : (resetEngine s).pending = none := rfl
@[simp] theorem resetEngine_len (s : State) : (resetEngine s).len = 0 := rfl
@[simp] theorem resetEngine_gfA (s : State) : (resetEngine s).gfA = 0 := rfl
@[simp] theorem resetEngine_gfB (s : State) : (resetEngine s).gfB = 0 := rfl
@[simp] theorem resetEngine_gfR (s : State) : (resetEngine s).gfR = 0 := rfl
@[simp] theorem resetEngine_key (s : State) : (resetEngine s).key = Vector.replicate 16 0 := rfl
@[simp] theorem resetEngine_iv (s : State) : (resetEngine s).iv = Vector.replicate 16 0 := rfl
@[simp] theorem resetEngine_blk (s : State) : (resetEngine s).blk = Vector.replicate 16 0 := rfl
@[simp] theorem resetEngine_rk (s : State) : (resetEngine s).rk = Vector.replicate 176 0 := rfl
@[simp] theorem resetEngine_mem (s : State) : (resetEngine s).mem = { draw := s.mem.draw + 1, cells := [] } := rfl
@[simp] theorem resetEngine_agenda (s : State) : (resetEngine s).agenda = s.agenda := rfl
@[simp] theorem resetEngine_resp (s : State) : (resetEngine s).resp = s.resp := rfl

end Sys2Proof.Machine
end

