-- ==== Sys2Proof/Laws/Ops.lean ====
section
/-! SUPPORT. What each shared operation can do, said once: the guards, the CBC loops, the engine's turn, a step. -/

namespace Sys2Proof.Machine

theorem retire_eq (s : State) : retire s = .next (completedWith errNone s) := rfl

theorem raiseError_eq (c : ErrCode) (s : State) : raiseError c s = .next (completedWith c s) := rfl

@[simp] theorem keyError_valid {s : State} (h : s.keyValid = true) : keyError s = none := by simp [keyError, h]

@[simp] theorem keyError_invalid {s : State} (h : s.keyValid = false) : keyError s = some errKeyNotExpanded := by
  simp [keyError, h]

theorem cbcLengthValid_iff (size l : Nat) : cbcLengthValid size l = true ↔ 0 < l ∧ l % 16 = 0 ∧ l ≤ size := by
  simp [cbcLengthValid, and_assoc]

/-- What the checks CBCENC and CBCDEC share can find. -/
theorem cbcError_cases (s : State) :
    (s.keyValid = false ∧ cbcError s = some errKeyNotExpanded) ∨
    (s.keyValid = true ∧ cbcLengthValid s.cfg.bufSize s.len.toNat = false ∧ cbcError s = some errBufferLength) ∨
    (s.keyValid = true ∧ cbcLengthValid s.cfg.bufSize s.len.toNat = true ∧ cbcError s = none) := by
  unfold cbcError keyError
  cases s.keyValid <;> cases cbcLengthValid s.cfg.bufSize s.len.toNat <;> simp

theorem cbcEncryptLoop_wf (size : Nat) (rk : Schedule) : ∀ (n i : Nat) (m : Memory) (cv : Block),
    m.wf size → (cbcEncryptLoop size rk n i m cv).1.wf size
  | 0, _, _, _, h => h
  | n + 1, i, _, _, h => cbcEncryptLoop_wf size rk n (i + 1) _ _ (writeBlock_wf i _ h)

theorem cbcDecryptLoop_wf (size : Nat) (rk : Schedule) : ∀ (n i : Nat) (m : Memory) (cv : Block),
    m.wf size → (cbcDecryptLoop size rk n i m cv).1.wf size
  | 0, _, _, _, h => h
  | n + 1, i, _, _, h => cbcDecryptLoop_wf size rk n (i + 1) _ _ (writeBlock_wf i _ h)

/-- Bytes outside blocks i .. i+n-1 are untouched (45_cbc.md R122). -/
theorem cbcEncryptLoop_outside (size : Nat) (rk : Schedule) : ∀ (n i : Nat) (m : Memory) (cv : Block) (j : Nat),
    (j < 16 * i ∨ 16 * (i + n) ≤ j) → (cbcEncryptLoop size rk n i m cv).1.read size j = m.read size j
  | 0, _, _, _, _, _ => rfl
  | n + 1, i, m, cv, j, h => by
    rw [cbcEncryptLoop, cbcEncryptLoop_outside size rk n (i + 1) _ _ j (by omega),
      read_writeBlock_outside _ _ _ _ _ (by omega)]

/-- Bytes outside blocks i .. i+n-1 are untouched (R123). -/
theorem cbcDecryptLoop_outside (size : Nat) (rk : Schedule) : ∀ (n i : Nat) (m : Memory) (cv : Block) (j : Nat),
    (j < 16 * i ∨ 16 * (i + n) ≤ j) → (cbcDecryptLoop size rk n i m cv).1.read size j = m.read size j
  | 0, _, _, _, _, _ => rfl
  | n + 1, i, m, cv, j, h => by
    rw [cbcDecryptLoop, cbcDecryptLoop_outside size rk n (i + 1) _ _ j (by omega),
      read_writeBlock_outside _ _ _ _ _ (by omega)]

theorem dropTurn_eq_self {s : State} (h : s.agenda = []) : dropTurn s = s := by
  cases s; simp_all [dropTurn]

/-- Everything a step can do. -/
theorem step_cases {s : State} (h : s.cfg.wf) :
    (engineIsNext s = true ∧ step s = engineTurn (dropTurn s)) ∨
    (∃ a, s.agenda.head? = some (.host a) ∧ step s = .next (hostAccess a (dropTurn s))) ∨
    (s.agenda.head? = some .reset ∧ step s = .next (resetEngine (dropTurn s))) := by
  unfold step
  rw [if_pos h]
  cases ha : s.agenda with
  | nil => exact .inl ⟨by simp [engineIsNext, ha], by simp [dropTurn_eq_self ha]⟩
  | cons t rest =>
    have hd : { s with agenda := rest } = dropTurn s := by simp [dropTurn, ha]
    cases t with
    | host a => exact .inr (.inl ⟨a, by simp, by simp [takeTurn, hd]⟩)
    | engine => exact .inl ⟨by simp [engineIsNext, ha], by simp [takeTurn, hd]⟩
    | reset => exact .inr (.inr ⟨by simp, by simp [takeTurn, hd]⟩)

/-- Everything the engine's turn can do. -/
theorem engineTurn_cases (s : State) :
    (s.busy = false ∧ engineTurn s = .next s) ∨
    (s.busy = true ∧ s.pending = none ∧ engineTurn s = .fault .pendingEmpty) ∨
    (∃ w i, s.busy = true ∧ s.pending = some w ∧ decode w = .legal i ∧ engineTurn s = exec i s) ∨
    (∃ w y, s.busy = true ∧ s.pending = some w ∧ decode w = .illegal y ∧
      engineTurn s = .next (completedWith errIllegalCommand s)) := by
  unfold engineTurn complete
  cases hb : s.busy with
  | false => simp
  | true =>
    cases hp : s.pending with
    | none => simp
    | some w =>
      cases hd : decode w with
      | legal i => exact .inr (.inr (.inl ⟨w, i, by simp [hd]⟩))
      | illegal y => exact .inr (.inr (.inr ⟨w, y, by simp [hd, raiseError_eq]⟩))

end Sys2Proof.Machine
end

