-- ==== Sys2Proof/Laws/Bus.lean ====
section
/-! SUPPORT. The register map at each offset, and what a legal host access does. -/

namespace Sys2Proof.Machine

theorem inAperture_add (c : Config) {off : Nat} (h : off < 0x10000) : inAperture c (c.engineBase + off) = true := by
  have : c.engineBase + off < c.engineBase + 65536 := by omega
  simp [inAperture, h]

/-- A legal read at offset `off`. -/
theorem hostAccess_memRead (s : State) {off : Nat} (h : legalOffset off) :
    hostAccess (memRead s.cfg off) s = respond (.readData (busRead (regAt s.cfg.bufSize off) s)) s := by
  simp [hostAccess, memRead, inAperture_add s.cfg h.1, legalAccess, h.2]

/-- A legal write at offset `off`. -/
theorem hostAccess_memWrite (s : State) {off : Nat} (v : Word) (h : legalOffset off) :
    hostAccess (memWrite s.cfg off v) s = respond .writeDone (busWrite (regAt s.cfg.bufSize off) v s) := by
  simp [hostAccess, memWrite, inAperture_add s.cfg h.1, legalAccess, h.2]

@[simp] theorem regAt_id (size : Nat) : regAt size 0x000 = .id := by simp [regAt]
@[simp] theorem regAt_ctrl (size : Nat) : regAt size 0x004 = .ctrl := by simp [regAt]
@[simp] theorem regAt_status (size : Nat) : regAt size 0x008 = .status := by simp [regAt]
@[simp] theorem regAt_cmd (size : Nat) : regAt size 0x00C = .cmd := by simp [regAt]
@[simp] theorem regAt_len (size : Nat) : regAt size 0x010 = .len := by simp [regAt]
@[simp] theorem regAt_gfA (size : Nat) : regAt size 0x014 = .gfA := by simp [regAt]
@[simp] theorem regAt_gfB (size : Nat) : regAt size 0x018 = .gfB := by simp [regAt]
@[simp] theorem regAt_gfR (size : Nat) : regAt size 0x01C = .gfR := by simp [regAt]

theorem regAt_key (size : Nat) (n : Fin 4) : regAt size (0x020 + 4 * n.val) = .key n := by
  unfold regAt; repeat rw [if_neg (by omega)]
  rw [dif_pos (by omega)]; congr 1; ext; simp

theorem regAt_iv (size : Nat) (n : Fin 4) : regAt size (0x030 + 4 * n.val) = .iv n := by
  unfold regAt; repeat rw [if_neg (by omega)]
  rw [dif_neg (by omega), dif_pos (by omega)]; congr 1; ext; simp

theorem regAt_blk (size : Nat) (n : Fin 4) : regAt size (0x040 + 4 * n.val) = .blk n := by
  unfold regAt; repeat rw [if_neg (by omega)]
  rw [dif_neg (by omega), dif_neg (by omega), dif_pos (by omega)]; congr 1; ext; simp

theorem regAt_rkey (size : Nat) (i : Fin 44) : regAt size (0x100 + 4 * i.val) = .rkey i := by
  unfold regAt; repeat rw [if_neg (by omega)]
  rw [dif_neg (by omega), dif_neg (by omega), dif_neg (by omega), dif_pos (by omega)]; congr 1; ext; simp

theorem regAt_buf {size k : Nat} (h : k < size) : regAt size (0x1000 + k) = .buf k := by
  unfold regAt; repeat rw [if_neg (by omega)]
  rw [dif_neg (by omega), dif_neg (by omega), dif_neg (by omega), dif_neg (by omega), if_pos (by omega),
    Nat.add_sub_cancel_left]

/-- What stands at an offset, by what a busy engine does with it (20_memory.md R58). -/
theorem regAt_cases (size off : Nat) :
    (regAt size off = .id ∧ off = 0x000) ∨ (regAt size off = .ctrl ∧ off = 0x004) ∨
    (regAt size off = .status ∧ off = 0x008) ∨
    (inDataRegion (regAt size off) = true ∧ isReadOnlyData (regAt size off) = false ∧
      ((0x00C ≤ off ∧ off < 0x050 ∧ off ≠ 0x01C) ∨ (0x1000 ≤ off ∧ off < 0x1000 + size))) ∨
    (inDataRegion (regAt size off) = true ∧ isReadOnlyData (regAt size off) = true ∧
      (off = 0x01C ∨ (0x100 ≤ off ∧ off < 0x1B0))) ∨
    (regAt size off = .reserved ∧ (off < 0x020 ∧ off % 4 ≠ 0 ∨ (0x050 ≤ off ∧ off < 0x100) ∨
      (0x1B0 ≤ off ∧ off < 0x1000) ∨ 0x1000 + size ≤ off)) := by
  by_cases h0 : off = 0x000
  · exact .inl ⟨by simp [h0], h0⟩
  by_cases h1 : off = 0x004
  · exact .inr (.inl ⟨by simp [h1], h1⟩)
  by_cases h2 : off = 0x008
  · exact .inr (.inr (.inl ⟨by simp [h2], h2⟩))
  refine .inr (.inr (.inr ?_))
  unfold regAt
  rw [if_neg h0, if_neg h1, if_neg h2]
  split
  · exact .inl ⟨rfl, rfl, by omega⟩
  split
  · exact .inl ⟨rfl, rfl, by omega⟩
  split
  · exact .inl ⟨rfl, rfl, by omega⟩
  split
  · exact .inl ⟨rfl, rfl, by omega⟩
  split
  · exact .inr (.inl ⟨rfl, rfl, by omega⟩)
  split
  · exact .inl ⟨rfl, rfl, by omega⟩
  split
  · exact .inl ⟨rfl, rfl, by omega⟩
  split
  · exact .inl ⟨rfl, rfl, by omega⟩
  split
  · exact .inr (.inl ⟨rfl, rfl, by omega⟩)
  split
  · exact .inl ⟨rfl, rfl, by omega⟩
  · exact .inr (.inr ⟨rfl, by omega⟩)

/-- SetWord sets the four lanes and leaves the other bytes (20_memory.md R53). -/
theorem setBlockWord_getElem (b : Block) (n : Fin 4) (v : Word) (k : Fin 16) :
    (setBlockWord b n v)[k] = if k.val / 4 = n.val then laneOf v (k.val % 4) else b[k] := by
  obtain ⟨n, hn⟩ := n
  obtain ⟨k, hk⟩ := k
  unfold setBlockWord
  interval_cases n <;> interval_cases k <;> simp

/-- Word after SetWord: the lanes put a word together again. -/
theorem packWord_laneOf (v : Word) : packWord (laneOf v 0) (laneOf v 1) (laneOf v 2) (laneOf v 3) = v := by
  unfold packWord laneOf
  refine BitVec.eq_of_getLsbD_eq fun i hi => ?_
  simp only [BitVec.getLsbD_append, BitVec.getLsbD_extractLsb']
  by_cases c1 : i < 8
  · simp [c1]
  by_cases c2 : i - 8 < 8
  · simp [c1, c2, show 8 + (i - 8) = i by omega]
  by_cases c3 : i - 8 - 8 < 8
  · simp [c1, c2, c3, show 16 + (i - 8 - 8) = i by omega]
  · simp [c1, c2, c3, show 24 + (i - 8 - 8 - 8) = i by omega]
    omega

theorem blockWord_setBlockWord (b : Block) (n : Fin 4) (v : Word) : blockWord (setBlockWord b n v) n = v := by
  have h : blockWord (setBlockWord b n v) n = packWord (laneOf v 0) (laneOf v 1) (laneOf v 2) (laneOf v 3) := by
    obtain ⟨n, hn⟩ := n
    unfold blockWord setBlockWord
    interval_cases n <;> simp
  rw [h, packWord_laneOf]

/-- While busy an access can change only CTRL.IE, OVR, DONE and the answer. -/
theorem hostAccess_busy (a : Access) {s : State} (hb : s.busy = true) :
    ∃ ie ovr done resp, hostAccess a s = { s with ie := ie, ovr := ovr, done := done, resp := resp } := by
  have hw : ∀ r v, ∃ ie ovr done, busWrite r v s = { s with ie := ie, ovr := ovr, done := done } := by
    intro r v
    have e : busWrite r v s =
        if inDataRegion r = true then (if isReadOnlyData r = true then s else setOvr s) else writeReg r v s := by
      simp [busWrite, hb]
    rw [e]
    cases r with
    | ctrl => exact ⟨v.getLsbD 0, s.ovr, s.done, rfl⟩
    | status => exact ⟨s.ie, s.ovr && !v.getLsbD 3, s.done && !v.getLsbD 1, rfl⟩
    | _ => first | exact ⟨s.ie, s.ovr, s.done, rfl⟩ | exact ⟨s.ie, true, s.done, rfl⟩
  cases a with
  | read width addr =>
    simp only [hostAccess]
    split <;> [split; skip] <;> exact ⟨s.ie, s.ovr, s.done, _, rfl⟩
  | write width addr v =>
    simp only [hostAccess]
    split
    · split
      · obtain ⟨ie, ovr, done, h⟩ := hw (regAt s.cfg.bufSize (addr - s.cfg.engineBase)) v
        exact ⟨ie, ovr, done, some .writeDone, by rw [h]; rfl⟩
      · exact ⟨s.ie, s.ovr, s.done, _, rfl⟩
    · exact ⟨s.ie, s.ovr, s.done, _, rfl⟩

/-- Every access leaves the parameters and the agenda alone. -/
theorem hostAccess_env (a : Access) (s : State) :
    (hostAccess a s).cfg = s.cfg ∧ (hostAccess a s).agenda = s.agenda := by
  have hw : ∀ r v, (busWrite r v s).cfg = s.cfg ∧ (busWrite r v s).agenda = s.agenda := by
    intro r v
    unfold busWrite
    split
    · split <;> simp
    · cases r <;> simp [writeReg]
  cases a with
  | read width addr => simp only [hostAccess]; split <;> [split; skip] <;> simp
  | write width addr v => simp only [hostAccess]; split <;> [split; skip] <;> simp [hw]

end Sys2Proof.Machine
end

