-- ==== Sys2Proof/Laws/Encoding.lean ====
section
/-! SUPPORT. The fields of a command word, and that a word without reserved bits is its fields. -/

namespace Sys2Proof

theorem commandWord_fields (op : BitVec 5) (rnd : BitVec 4) (u : Bool) :
    opField (commandWord op rnd u) = op ∧ rndField (commandWord op rnd u) = rnd ∧
      uField (commandWord op rnd u) = u ∧ rsv0Field (commandWord op rnd u) = 0 ∧
      rsv1Field (commandWord op rnd u) = 0 := by
  revert op rnd u; decide +kernel

/-- A word with RSV0 = 0 and RSV1 = 0 is the command word of its OP, RND and U (30_encoding.md R70). -/
theorem commandWord_of_fields {w : Word} (h0 : rsv0Field w = 0) (h1 : rsv1Field w = 0) :
    w = commandWord (opField w) (rndField w) (uField w) := by
  have z0 : ∀ j, j < 3 → w.getLsbD (5 + j) = false := fun j hj => by
    have := congrArg (fun v : BitVec 3 => v.getLsbD j) h0
    simpa [rsv0Field, BitVec.getLsbD_extractLsb', hj] using this
  have z1 : ∀ j, j < 19 → w.getLsbD (13 + j) = false := fun j hj => by
    have := congrArg (fun v : BitVec 19 => v.getLsbD j) h1
    simpa [rsv1Field, BitVec.getLsbD_extractLsb', hj] using this
  refine BitVec.eq_of_getLsbD_eq fun i hi => ?_
  unfold commandWord opField rndField uField
  simp only [BitVec.getLsbD_append, BitVec.getLsbD_extractLsb']
  by_cases c1 : i < 5
  · simp [c1]
  by_cases c2 : i - 5 < 3
  · have := z0 (i - 5) c2
    rw [show 5 + (i - 5) = i by omega] at this
    simp [c1, c2, this]
  by_cases c3 : i - 5 - 3 < 4
  · simp [c1, c2, c3, show 8 + (i - 5 - 3) = i by omega]
  by_cases c4 : i - 5 - 3 - 4 < 1
  · simp [show i = 12 by omega]
  · have := z1 (i - 13) (by omega)
    rw [show 13 + (i - 13) = i by omega] at this
    simp [c1, c2, c3, c4, this]

end Sys2Proof
end

