-- ==== Sys2Proof/Laws/Exec.lean ====
section
/-! SUPPORT. What a command can do, said once: the form of every next state, and the ways out of UNPAD. -/

namespace Sys2Proof.Machine

/-- The next states of a command: an error changes nothing but what every completion writes; a success has written
only its own registers, and a BUF it has written keeps the canonical form. -/
inductive Effect (i : Instr) (s : State) : State → Prop where
  | error (c : ErrCode)
      (h : c ∈ [errBufferLength, errInvalidPadding, errKeyNotExpanded, errCapacity, errIllegalCommand]) :
      Effect i s (completedWith c s)
  | nop (h : i = .nop) : Effect i s (completedWith errNone s)
  | schedule (h : i = .keyexp) : Effect i s (completedWith errNone (setSchedule (keyExpansion s.key) s))
  | product (r : Byte) (h : i = .xtime ∨ i = .gmul) : Effect i s (completedWith errNone (setGfR r s))
  | block (b : Block) (h : writesBlk i = true) : Effect i s (completedWith errNone (setBlk b s))
  | chained (m : Memory) (b : Block) (h : i = .cbcenc ∨ i = .cbcdec true)
      (hm : s.mem.wf s.cfg.bufSize → m.wf s.cfg.bufSize) :
      Effect i s (completedWith errNone (setIv b (setMem m s)))
  | unchained (m : Memory) (h : i = .cbcdec false) (hm : s.mem.wf s.cfg.bufSize → m.wf s.cfg.bufSize) :
      Effect i s (completedWith errNone (setMem m s))
  | padded (m : Memory) (n : Nat) (h : i = .pad ∨ i = .unpad) (hm : s.mem.wf s.cfg.bufSize → m.wf s.cfg.bufSize) :
      Effect i s (completedWith errNone (setLen n (setMem m s)))

theorem keyed_effect {i : Instr} {s : State} (b : Block) (h : writesBlk i = true) :
    ∃ t, (match keyError s with
      | some c => raiseError c s
      | none => retire (setBlk b s)) = .next t ∧ Effect i s t := by
  cases hk : s.keyValid
  · exact ⟨_, by rw [keyError_invalid hk]; rfl, .error errKeyNotExpanded (by decide)⟩
  · exact ⟨_, by rw [keyError_valid hk]; rfl, .block b h⟩

theorem exec_effect (i : Instr) (s : State) : ∃ t, exec i s = .next t ∧ Effect i s t := by
  cases i with
  | nop => exact ⟨_, rfl, .nop rfl⟩
  | keyexp => exact ⟨_, rfl, .schedule rfl⟩
  | xtime => exact ⟨_, rfl, .product _ (.inl rfl)⟩
  | gmul => exact ⟨_, rfl, .product _ (.inr rfl)⟩
  | subb => exact ⟨_, rfl, .block _ rfl⟩
  | invsubb => exact ⟨_, rfl, .block _ rfl⟩
  | shrow => exact ⟨_, rfl, .block _ rfl⟩
  | invshrow => exact ⟨_, rfl, .block _ rfl⟩
  | mixcol => exact ⟨_, rfl, .block _ rfl⟩
  | invmixcol => exact ⟨_, rfl, .block _ rfl⟩
  | encb => exact keyed_effect _ rfl
  | decb => exact keyed_effect _ rfl
  | addrk r =>
    simp only [exec, execAddrk]
    split
    · exact keyed_effect _ rfl
    · exact ⟨_, rfl, .error errIllegalCommand (by decide)⟩
  | cbcenc =>
    simp only [exec, execCbcenc]
    rcases cbcError_cases s with ⟨_, h⟩ | ⟨_, _, h⟩ | ⟨_, _, h⟩ <;> rw [h]
    · exact ⟨_, rfl, .error errKeyNotExpanded (by decide)⟩
    · exact ⟨_, rfl, .error errBufferLength (by decide)⟩
    · exact ⟨_, rfl, .chained _ _ (.inl rfl) (cbcEncryptLoop_wf _ _ _ _ _ _)⟩
  | cbcdec u =>
    simp only [exec, execCbcdec]
    rcases cbcError_cases s with ⟨_, h⟩ | ⟨_, _, h⟩ | ⟨_, _, h⟩ <;> rw [h]
    · exact ⟨_, rfl, .error errKeyNotExpanded (by decide)⟩
    · exact ⟨_, rfl, .error errBufferLength (by decide)⟩
    · cases u
      · exact ⟨_, rfl, .unchained _ rfl (cbcDecryptLoop_wf _ _ _ _ _ _)⟩
      · exact ⟨_, rfl, .chained _ _ (.inr rfl) (cbcDecryptLoop_wf _ _ _ _ _ _)⟩
  | pad =>
    simp only [exec, execPad]
    split
    · exact ⟨_, rfl, .error errCapacity (by decide)⟩
    · exact ⟨_, rfl, .padded _ _ (.inl rfl) (writeBytes_wf _ _)⟩
  | unpad =>
    simp only [exec, execUnpad]
    split <;> [skip; split <;> [skip; split <;> [skip; split]]]
    · exact ⟨_, rfl, .error errBufferLength (by decide)⟩
    · exact ⟨_, rfl, .error errInvalidPadding (by decide)⟩
    · exact ⟨_, rfl, .error errInvalidPadding (by decide)⟩
    · exact ⟨_, rfl, .padded _ _ (.inr rfl) (writeBytes_wf _ _)⟩
    · exact ⟨_, rfl, .error errInvalidPadding (by decide)⟩

theorem effect_of_exec {i : Instr} {s t : State} (h : exec i s = .next t) : Effect i s t := by
  obtain ⟨u, hu, he⟩ := exec_effect i s
  rw [h] at hu
  cases hu
  exact he

theorem allPadBytes_iff (m : Memory) (size k : Nat) {p : Nat} (hp : p < 256) :
    allPadBytes m size k p = true ↔ ∀ j, k ≤ j → j < k + p → (m.read size j).toNat = p := by
  unfold allPadBytes
  simp only [List.all_eq_true, List.mem_range, beq_iff_eq]
  constructor
  · intro h j h1 h2
    have := h (j - k) (by omega)
    rw [show k + (j - k) = j by omega] at this
    rw [this, BitVec.toNat_ofNat]; omega
  · intro h j hj
    refine BitVec.eq_of_toNat_eq ?_
    rw [h (k + j) (by omega) (by omega), BitVec.toNat_ofNat]; omega

/-- The three ways out of UNPAD (46_pkcs7.md R131). -/
theorem execUnpad_cases (s : State) :
    (s.cfg.bufSize < s.len.toNat ∧ execUnpad s = raiseError errBufferLength s) ∨
    (s.len.toNat ≤ s.cfg.bufSize ∧ badPadding s ∧ execUnpad s = raiseError errInvalidPadding s) ∨
    (s.len.toNat ≤ s.cfg.bufSize ∧ ¬ badPadding s ∧ execUnpad s =
      let k := s.len.toNat - (bufByte s (s.len.toNat - 1)).toNat
      retire (setLen k (setMem (s.mem.writeBytes s.cfg.bufSize k
        (List.replicate (bufByte s (s.len.toNat - 1)).toNat 0)) s))) := by
  simp only [execUnpad]
  by_cases h : s.cfg.bufSize < s.len.toNat
  · exact .inl ⟨h, if_pos h⟩
  rw [if_neg h]
  by_cases h0 : s.len.toNat = 0
  · exact .inr (.inl ⟨by omega, .inl h0, if_pos h0⟩)
  rw [if_neg h0]
  have hlt := (s.mem.read s.cfg.bufSize (s.len.toNat - 1)).isLt
  split
  · rename_i hp
    refine .inr (.inl ⟨by omega, .inr ?_, rfl⟩)
    show _ ∨ _ ∨ _ ∨ _
    unfold bufByte
    tauto
  · rename_i hp
    push Not at hp
    have hiff := allPadBytes_iff s.mem s.cfg.bufSize
      (s.len.toNat - (s.mem.read s.cfg.bufSize (s.len.toNat - 1)).toNat)
      (p := (s.mem.read s.cfg.bufSize (s.len.toNat - 1)).toNat) (by omega)
    split
    · rename_i ha
      rw [hiff] at ha
      refine .inr (.inr ⟨by omega, ?_, rfl⟩)
      rintro (h1 | h1 | h1 | h1 | ⟨j, h1, h2, h3⟩)
      · exact h0 h1
      · exact hp.1 h1
      · exact absurd hp.2.1 (by simpa [bufByte] using h1)
      · exact absurd hp.2.2 (by simpa [bufByte] using h1)
      · exact h3 (ha j (by simpa [bufByte] using h1) (by omega))
    · rename_i ha
      rw [hiff] at ha
      push Not at ha
      obtain ⟨j, h1, h2, h3⟩ := ha
      exact .inr (.inl ⟨by omega, .inr (.inr (.inr (.inr ⟨j, h1, by omega, h3⟩))), rfl⟩)

/-- With a well-formed BUF_SIZE, PAD lacks room exactly when LEN ≥ BUF_SIZE (46_pkcs7.md R130). -/
theorem padLen_overflow_iff {c : Config} (hc : c.wf) (l : Nat) : c.bufSize < l + padLen l ↔ c.bufSize ≤ l := by
  obtain ⟨h1, h2, h3⟩ := hc
  unfold padLen; omega

/-- Multiplying by 1 changes nothing (41_gf.md R90). -/
theorem gmul_one_left (a : Byte) : gmul 1#8 a = a := by revert a; decide +kernel

end Sys2Proof.Machine
end

