-- ==== Sys2Proof/Laws/HostProgram.lean ====
section
/-! SUPPORT. How long the lines of a buffer are. -/

namespace Sys2Proof.Machine

@[simp] theorem wordsOf_length (buf : List Byte) : (wordsOf buf).length = (buf.length + 3) / 4 := by
  induction buf using wordsOf.induct with
  | case5 a b c d rest ih => simp [wordsOf, ih]; omega
  | _ => simp [wordsOf]

@[simp] theorem wrBufLines_length (k : Nat) (vs : List Word) : (wrBufLines k vs).length = vs.length := by
  induction vs generalizing k with
  | nil => rfl
  | cons v vs ih => simp [wrBufLines, ih]

/-- One line for each word of the buffer, and one for LEN. -/
@[simp] theorem bufferLines_length (buf : List Byte) : (bufferLines buf).length = (buf.length + 3) / 4 + 1 := by
  simp [bufferLines, loadLines]

end Sys2Proof.Machine
end

