-- ==== Sys2Proof/Laws/PerInstr.lean ====
section
/-! SUPPORT. The family TableRow: a command's word lies in its row of the opcode table (30_encoding.md R73). -/

namespace Sys2Proof.Laws.TableRow

/-- The row's mask (R73). -/
def rowMask : Instr → Word
  | .cbcdec _ => 0xFFFFEFFF
  | .addrk _ => 0xFFFFF0FF
  | _ => 0xFFFFFFFF

/-- The row's match (R73). -/
def rowMatch : Instr → Word
  | .nop => 0x00000000
  | .keyexp => 0x00000001
  | .encb => 0x00000002
  | .decb => 0x00000003
  | .cbcenc => 0x00000004
  | .cbcdec _ => 0x00000005
  | .pad => 0x00000006
  | .unpad => 0x00000007
  | .xtime => 0x00000008
  | .gmul => 0x00000009
  | .subb => 0x0000000A
  | .invsubb => 0x0000000B
  | .shrow => 0x0000000C
  | .invshrow => 0x0000000D
  | .mixcol => 0x0000000E
  | .invmixcol => 0x0000000F
  | .addrk _ => 0x00000010

/-- The word of a command, masked, is the row's match. -/
def Statement (i : Instr) : Prop := encode i &&& rowMask i = rowMatch i

theorem nop : Statement .nop := by unfold Statement; decide
theorem keyexp : Statement .keyexp := by unfold Statement; decide
theorem encb : Statement .encb := by unfold Statement; decide
theorem decb : Statement .decb := by unfold Statement; decide
theorem cbcenc : Statement .cbcenc := by unfold Statement; decide
theorem cbcdec (u : Bool) : Statement (.cbcdec u) := by unfold Statement; revert u; decide
theorem pad : Statement .pad := by unfold Statement; decide
theorem unpad : Statement .unpad := by unfold Statement; decide
theorem xtime : Statement .xtime := by unfold Statement; decide
theorem gmul : Statement .gmul := by unfold Statement; decide
theorem subb : Statement .subb := by unfold Statement; decide
theorem invsubb : Statement .invsubb := by unfold Statement; decide
theorem shrow : Statement .shrow := by unfold Statement; decide
theorem invshrow : Statement .invshrow := by unfold Statement; decide
theorem mixcol : Statement .mixcol := by unfold Statement; decide
theorem invmixcol : Statement .invmixcol := by unfold Statement; decide
theorem addrk (rnd : BitVec 4) : Statement (.addrk rnd) := by unfold Statement; revert rnd; decide

end Sys2Proof.Laws.TableRow
end

