-- ==== Sys2Proof/Tests/Slice0.lean ====
section
/-! SUPPORT. The model's own tests. Expected values come from the spec: worked examples of the command rules and 95_test_vectors.md. The witnesses show that the hypotheses of the statements can be met. -/

namespace Sys2Proof.Tests

open Sys2Proof Sys2Proof.Machine

-- One test at a time: the tests checked side by side would each take a thread of their own.
set_option Elab.async false

/-! ### Helpers -/

/-- Does the outcome go on, in a state with `p`? -/
def nextIs (o : Host.Outcome State Fault Refusal) (p : State → Bool) : Bool :=
  match o with
  | .next t => p t
  | .fault _ => false
  | .refused _ => false

/-- A hex string of 32 digits (00_scope.md R12) as a block. -/
def hex (n : Nat) : Block := Vector.ofFn fun i => BitVec.ofNat 8 (n >>> (8 * (15 - i.val)))

/-- The state after `initContext` without its IV: KEY, its schedule, KEY_VALID. -/
def keyed (key : Nat) : State :=
  { State.reset with key := hex key, rk := keyExpansion (hex key), keyValid := true }

/-- The keys and the block of 95_test_vectors.md V1 and V2. -/
def keyV1 : Nat := 0x000102030405060708090a0b0c0d0e0f
def keyV2 : Nat := 0x2b7e151628aed2a6abf7158809cf4f3c
def plainV1 : Nat := 0x00112233445566778899aabbccddeeff

/-- The state with blocks stored from BUF[0] on and LEN = `len`. -/
def loaded (s : State) (len : Nat) (bs : List Nat) : State :=
  { s with
    len := BitVec.ofNat 32 len
    mem := s.mem.writeBytes s.cfg.bufSize 0 (bs.flatMap fun b => (hex b).toList) }

/-- The state with LEN = `len` and the bytes `vs` from index `k` on. -/
def tail (s : State) (len k : Nat) (vs : List Byte) : State :=
  { s with len := BitVec.ofNat 32 len, mem := s.mem.writeBytes s.cfg.bufSize k vs }

/-- Does the command go on to a state with `p`? -/
def runsTo (i : Instr) (s : State) (p : State → Bool) : Bool := nextIs (exec i s) p

/-- Is the command over (47_system.md R135)? -/
def done (t : State) : Bool := !t.busy && t.done && t.pending.isNone

theorem not_legal {w : Word} {why : IllegalWord} (h : decode w = .illegal why) : ∀ i, decode w ≠ .legal i := by
  simp [h]

/-! ### WellFormed: the one check (30_encoding.md R73) -/

theorem test_wf_refuses_round_eleven : (Instr.addrk 11).wf = false := by decide
theorem test_wf_accepts_round_ten : (Instr.addrk 10).wf = true := by decide

/-! ### Decode: words written out from the fields RSV1 U RND RSV0 OP (30_encoding.md R70, R72) -/

theorem test_decode_nop : decode 0b0000000000000000000_0_0000_000_00000#32 = .legal .nop := by decide
theorem test_decode_keyexp : decode 0b0000000000000000000_0_0000_000_00001#32 = .legal .keyexp := by decide
theorem test_decode_encb : decode 0b0000000000000000000_0_0000_000_00010#32 = .legal .encb := by decide
theorem test_decode_decb : decode 0b0000000000000000000_0_0000_000_00011#32 = .legal .decb := by decide
theorem test_decode_cbcenc : decode 0b0000000000000000000_0_0000_000_00100#32 = .legal .cbcenc := by decide
theorem test_decode_cbcdec : decode 0b0000000000000000000_0_0000_000_00101#32 = .legal (.cbcdec false) := by decide
theorem test_decode_cbcdec_u : decode 0b0000000000000000000_1_0000_000_00101#32 = .legal (.cbcdec true) := by decide
theorem test_decode_pad : decode 0b0000000000000000000_0_0000_000_00110#32 = .legal .pad := by decide
theorem test_decode_unpad : decode 0b0000000000000000000_0_0000_000_00111#32 = .legal .unpad := by decide
theorem test_decode_xtime : decode 0b0000000000000000000_0_0000_000_01000#32 = .legal .xtime := by decide
theorem test_decode_gmul : decode 0b0000000000000000000_0_0000_000_01001#32 = .legal .gmul := by decide
theorem test_decode_subb : decode 0b0000000000000000000_0_0000_000_01010#32 = .legal .subb := by decide
theorem test_decode_invsubb : decode 0b0000000000000000000_0_0000_000_01011#32 = .legal .invsubb := by decide
theorem test_decode_shrow : decode 0b0000000000000000000_0_0000_000_01100#32 = .legal .shrow := by decide
theorem test_decode_invshrow : decode 0b0000000000000000000_0_0000_000_01101#32 = .legal .invshrow := by decide
theorem test_decode_mixcol : decode 0b0000000000000000000_0_0000_000_01110#32 = .legal .mixcol := by decide
theorem test_decode_invmixcol : decode 0b0000000000000000000_0_0000_000_01111#32 = .legal .invmixcol := by decide
theorem test_decode_addrk : decode 0b0000000000000000000_0_1001_000_10000#32 = .legal (.addrk 9) := by decide

/-- The words of 30_encoding.md R75 and of 95_test_vectors.md 3.8, with the test of R74 each one fails. -/
theorem test_decode_illegal :
    decode 0x00000020 = .illegal .reservedBits ∧ decode 0x00000080 = .illegal .reservedBits ∧
    decode 0x00002000 = .illegal .reservedBits ∧ decode 0x80000000 = .illegal .reservedBits ∧
    decode 0x00000124 = .illegal .reservedBits ∧ decode 0xffffffff = .illegal .reservedBits ∧
    decode 0x00000011 = .illegal .unassignedOp ∧ decode 0x0000001f = .illegal .unassignedOp ∧
    decode 0x00000105 = .illegal .rndOnOtherOp ∧ decode 0x00000b10 = .illegal .roundOutOfRange ∧
    decode 0x00000f10 = .illegal .roundOutOfRange ∧ decode 0x00001004 = .illegal .uOnOtherOp ∧
    decode 0x00001010 = .illegal .uOnOtherOp := by decide

theorem test_decodeTableWord :
    decodeTableWord 32 0x00000a10 = some (.addrk 10) ∧ decodeTableWord 32 0x00000b10 = none := by decide

/-- A word placed for the first step after reset runs (95_test_vectors.md 3.8, second row). -/
theorem test_step_runs_the_placed_word :
    nextIs (step (State.reset.withFetchWord 32 0x00000001)) (fun t => t.keyValid && done t && t.err == 0) = true := by
  decide +kernel

/-! ### One step of each command -/

theorem test_nop : runsTo .nop (keyed keyV1) (fun t => statusWord t == 0x00000006) = true := by decide +kernel

theorem test_xtime_reduces : runsTo .xtime { State.reset with gfA := 0xff } (fun t => t.gfR == 0xe5) = true := by
  decide +kernel
theorem test_gmul_uses_bit_five :
    runsTo .gmul { State.reset with gfA := 0x57, gfB := 0x20 } (fun t => t.gfR == 0x0e) = true := by decide +kernel
theorem test_gmul :
    runsTo .gmul { State.reset with gfA := 0x57, gfB := 0x83 } (fun t => t.gfR == 0xc1 && t.gfA == 0x57) = true := by
  decide +kernel

theorem test_subb : runsTo .subb { State.reset with blk := hex plainV1 }
    (fun t => t.blk == hex 0x638293c31bfc33f5c4eeacea4bc12816) = true := by decide +kernel
theorem test_invsubb : runsTo .invsubb { State.reset with blk := hex plainV1 }
    (fun t => t.blk == hex 0x52e3946686edd30297f962fe27c9997d) = true := by decide +kernel
theorem test_shrow : runsTo .shrow { State.reset with blk := hex plainV1 }
    (fun t => t.blk == hex 0x0055aaff4499ee3388dd2277cc1166bb) = true := by decide +kernel
theorem test_invshrow : runsTo .invshrow { State.reset with blk := hex plainV1 }
    (fun t => t.blk == hex 0x00ddaa774411eebb885522ffcc996633) = true := by decide +kernel
theorem test_mixcol : runsTo .mixcol { State.reset with blk := hex plainV1 }
    (fun t => t.blk == hex 0x2277005566334411aaff88ddeebbcc99) = true := by decide +kernel
theorem test_invmixcol : runsTo .invmixcol { State.reset with blk := hex plainV1 }
    (fun t => t.blk == hex 0xaaff88ddeebbcc992277005566334411) = true := by decide +kernel
theorem test_addrk_zero : runsTo (.addrk 0) { keyed keyV1 with blk := hex plainV1 }
    (fun t => t.blk == hex 0x00102030405060708090a0b0c0d0e0f0) = true := by decide +kernel
theorem test_addrk_ten : runsTo (.addrk 10) { keyed keyV1 with blk := hex plainV1 }
    (fun t => t.blk == hex 0x13003f4ca7c12c607b9e0d3081f6de3a) = true := by decide +kernel

theorem test_keyexp : runsTo .keyexp { State.reset with key := hex keyV1 } (fun t => t.keyValid &&
    scheduleWord t.rk 4 == 0xd6aa74fd && scheduleWord t.rk 40 == 0x13111d7f && scheduleWord t.rk 43 == 0x4d2b30c5) =
    true := by decide +kernel
theorem test_keyexp_second_key : runsTo .keyexp { State.reset with key := hex keyV2 } (fun t =>
    scheduleWord t.rk 20 == 0xd4d1c6f8 && scheduleWord t.rk 43 == 0xb6630ca6) = true := by decide +kernel

theorem test_encb : runsTo .encb { keyed keyV2 with blk := hex 0x3243f6a8885a308d313198a2e0370734 }
    (fun t => t.blk == hex 0x3925841d02dc09fbdc118597196a0b32) = true := by decide +kernel
theorem test_encb_needs_a_key : runsTo .encb { State.reset with blk := hex plainV1 }
    (fun t => statusWord t == 0x00000502 && t.blk == hex plainV1) = true := by decide +kernel
theorem test_decb : runsTo .decb { keyed keyV1 with blk := hex 0x69c4e0d86a7b0430d8cdb78070b4c55a }
    (fun t => t.blk == hex plainV1) = true := by decide +kernel

/-- 95_test_vectors.md 3.6, the two equal blocks: KEY of V1, IV = 0, LEN = 32. -/
theorem test_cbcenc_chains : runsTo .cbcenc (loaded (keyed keyV1) 32 [plainV1, plainV1]) (fun t =>
    bufBlock t 0 == hex 0x69c4e0d86a7b0430d8cdb78070b4c55a && bufBlock t 1 == hex 0x7d7786be32d059a60ca8021a65dd9f09 &&
    t.iv == hex 0x7d7786be32d059a60ca8021a65dd9f09 && t.len == 32) = true := by decide +kernel
theorem test_cbcenc_refuses_seventeen : runsTo .cbcenc (loaded (keyed keyV1) 17 [plainV1, plainV1])
    (fun t => statusWord t == 0x00000306 && bufBlock t 0 == hex plainV1) = true := by decide +kernel

/-- The last two blocks of 95_test_vectors.md V6, decrypted as one chain. -/
theorem test_cbcdec_u_chains_and_advances_iv : runsTo (.cbcdec true)
    { loaded (keyed keyV2) 32 [0x73bed6b8e3c1743b7116e69e22229516, 0x3ff1caa1681fac09120eca307586e1a7] with
      iv := hex 0x5086cb9b507219ee95db113a917678b2 }
    (fun t => bufBlock t 0 == hex 0x30c81c46a35ce411e5fbc1191a0a52ef &&
      bufBlock t 1 == hex 0xf69f2445df4f9b17ad2b417be66c3710 && t.iv == hex 0x3ff1caa1681fac09120eca307586e1a7) =
    true := by decide +kernel
theorem test_cbcdec_keeps_iv : runsTo (.cbcdec false)
    { loaded (keyed keyV2) 16 [0x7649abac8119b246cee98e9b12e9197d] with iv := hex keyV1 }
    (fun t => bufBlock t 0 == hex 0x6bc1bee22e409f96e93d7e117393172a && t.iv == hex keyV1) = true := by decide +kernel

theorem test_pad : runsTo .pad (loaded State.reset 5 [0x68656c6c6f0000000000000000000000]) (fun t =>
    bufBlock t 0 == hex 0x68656c6c6f0b0b0b0b0b0b0b0b0b0b0b && t.len == 16 && t.err == 0) = true := by decide +kernel
theorem test_pad_at_the_end : runsTo .pad { State.reset with len := 4095 }
      (fun t => t.len == 4096 && bufByte t 4095 == 1 && t.err == 0) = true ∧
    runsTo .pad { State.reset with len := 4096 } (fun t => t.len == 4096 && t.err == 6) = true := by decide +kernel

theorem test_unpad : runsTo .unpad (loaded State.reset 16 [0x68656c6c6f0b0b0b0b0b0b0b0b0b0b0b]) (fun t =>
    bufBlock t 0 == hex 0x68656c6c6f0000000000000000000000 && t.len == 5 && t.err == 0) = true := by decide +kernel
theorem test_unpad_checks_every_byte : runsTo .unpad (loaded State.reset 16 [0x68656c6c6f0b0b0b0b0b0a0b0b0b0b0b])
    (fun t => bufBlock t 0 == hex 0x68656c6c6f0b0b0b0b0b0a0b0b0b0b0b && t.len == 16 && t.err == 4) = true := by
  decide +kernel

/-! ### Host accesses (95_test_vectors.md 3.8, 3.10) -/

/-- What the host reads at an offset. -/
def reads (s : State) (off : Nat) : Option Word := (hostAccess (memRead s.cfg off) s).resp.bind responseData

theorem test_key_write_lanes :
    let s := { State.reset with key := hex keyV2, keyValid := true }
    let t := hostAccess (memWrite State.reset.cfg 0x020 0x00010203) s
    t.key = hex 0x0001020328aed2a6abf7158809cf4f3c ∧ t.keyValid = false ∧ reads t 0x020 = some 0x00010203 := by
  decide +kernel
theorem test_buf_write_lanes :
    let t := hostAccess (memWrite State.reset.cfg 0x1004 0x68656c6c) State.reset
    [4, 5, 6, 7].map (bufByte t) = [0x68, 0x65, 0x6c, 0x6c] ∧ reads t 0x1004 = some 0x68656c6c := by decide +kernel
theorem test_fixed_reads : reads State.reset 0x000 = some 0x41455331 ∧ reads State.reset 0x050 = some 0 ∧
    reads State.reset 0x00C = some 0 ∧ reads State.reset 0x2000 = some 0 := by decide +kernel
theorem test_ignored_bits :
    reads (hostAccess (memWrite State.reset.cfg 0x014 0x000001ff) State.reset) 0x014 = some 0x000000ff ∧
    reads (hostAccess (memWrite State.reset.cfg 0x004 0xffffffff) State.reset) 0x004 = some 1 ∧
    reads (hostAccess (memWrite State.reset.cfg 0x100 0x12345678) State.reset) 0x100 = some 0 := by decide +kernel
theorem test_bus_errors : hostAccess (.read 32 0x022) State.reset = respond (.readError 0x022 0) State.reset ∧
    hostAccess (.write 8 0x020 1) State.reset = respond (.writeError 0x020) State.reset := ⟨rfl, rfl⟩

/-- The status sequence of one NOP from reset (3.8). -/
def nopIssued : State :=
  hostAccess (memWrite State.reset.cfg 0x00C 0) (hostAccess (memWrite State.reset.cfg 0x004 1) State.reset)

theorem test_status_sequence :
    let a := nopIssued
    let b := hostAccess (memWrite a.cfg 0x010 5) a
    let c := hostAccess (memWrite b.cfg 0x00C 1) b
    statusWord a = 0x00000001 ∧ irq a = false ∧ statusWord b = 0x00000009 ∧ reads b 0x010 = some 0 ∧
    statusWord c = 0x00000009 ∧ nextIs (engineTurn c) (fun d => statusWord d == 0x0000000a && irq d && d.len == 0 &&
      statusWord (hostAccess (memWrite d.cfg 0x008 2) d) == 0x00000008) = true := by decide +kernel

theorem test_reset_discards_the_command :
    nextIs (step { nopIssued with agenda := [.reset] }) (fun t => statusWord t == 0 && t.pending.isNone && !t.ie) =
      true := by decide +kernel

/-- `cbcEncrypt` of 17 bytes (30_encoding.md R81): the first four lines of the buffer, its last word, and the end of the
run with one busy poll, BUFFER_LENGTH with KEY_VALID (95_test_vectors.md 3.6, LEN = 17). -/
theorem test_cbc_call_of_seventeen_bytes :
    let p := cbcLines 0 .cbcenc (List.replicate 17 0xaa)
    let h := HostRun.run p (List.replicate 8 true ++ [false] ++ List.replicate 6 true)
      { line := 0, ok := true, machine := { State.reset with keyValid := true } }
    p.length = 13 ∧ p[4]? = some (.wr 0x1010 0xaa000000) ∧ p[5]? = some (.wr 0x010 17) ∧ h.line = 13 ∧
    statusWord h.machine = 0x00000306 ∧ bufByte h.machine 16 = 0xaa := by decide +kernel

/-- The assembler (30_encoding.md R78). -/
theorem test_assembler : assemble "ADDRK" (some 10) = some 0x00000a10 ∧ assemble "CBCDEC.U" none = some 0x00001005 ∧
    assemble "ADDRK" (some 11) = none ∧ assemble "ADDRK" none = none ∧ assemble "NOP" (some 0) = none ∧
    assemble "PAD.U" none = none := by decide +kernel

/-! ### Witnesses: concrete values that meet the hypotheses of each statement, clause by clause -/

/-- A NOP pending. -/
def busyNop : State := { State.reset with busy := true, pending := some 0 }

/-- A state with `w` pending and the turns `l` to come. -/
def pendingWord (w : Word) (l : List Turn) : State :=
  { State.reset with busy := true, pending := some w, agenda := l }

/-- An idle state with the turns `l` to come. -/
def idleWith (l : List Turn) : State := { State.reset with agenda := l }

/-- DecodeAndEncodeAgree: both sides, at the last round and with U set. -/
theorem witness_DecodeAndEncodeAgree :
    (decode 0x00000a10 = .legal (.addrk 10) ∧ (Instr.addrk 10).wf = true ∧ encode (.addrk 10) = 0x00000a10) ∧
    (decode 0x00001005 = .legal (.cbcdec true) ∧ (Instr.cbcdec true).wf = true ∧
      encode (.cbcdec true) = 0x00001005) := by decide

/-- LegalWordsAreTheTwentyEight: the first and last word of each range, and the words just outside. -/
theorem witness_LegalWords :
    [0x00000000, 0x0000000F, 0x00001005, 0x00000010, 0x00000a10].all (fun w => (decode w).instr?.isSome) = true ∧
    [0x00001004, 0x00000011, 0x00000b10].all (fun w => (decode w).instr?.isNone) = true := by decide

/-- AssemblerMakesExactlyTheLegalWords: its right side. -/
theorem witness_Assembler : ∃ i, decode 0x00000a10 = .legal i := ⟨.addrk 10, by decide⟩

/-- StepRunsTheDecodedCommand, with an empty agenda and with the engine's turn named. -/
theorem witness_StepRunsTheDecodedCommand :
    (∀ s ∈ [pendingWord 1 [], pendingWord 1 [.engine, .reset]], s.cfg.wf ∧ engineIsNext s = true ∧ s.busy = true ∧
      s.pending = some 1) ∧ decode 1 = .legal .keyexp := by decide

theorem witness_StepRunsTheFetchedWord :
    State.reset.cfg.wf ∧ decode (wordOfTable 32 0x00001005) = .legal (.cbcdec true) := by decide

/-- StepTakesTheNextTurn: a host's turn, a reset, an idle engine, and the three ways to be ill-formed. -/
theorem witness_StepTakesTheNextTurn :
    (idleWith [.host (.read 32 0)]).cfg.wf ∧ (idleWith [.host (.read 32 0)]).agenda = .host (.read 32 0) :: [] ∧
    (idleWith [.reset]).agenda = .reset :: [] ∧
    (engineIsNext (idleWith []) = true ∧ (idleWith []).busy = false) ∧
    ∀ size ∈ [0, 24, 61456], ¬ ({ State.reset with cfg := ⟨0, size⟩ } : State).cfg.wf := by decide

theorem witness_IllegalWordCompletesWithCode7 :
    ∃ s : State, ∃ w, s.cfg.wf ∧ engineIsNext s = true ∧ s.busy = true ∧ s.pending = some w ∧
      ∀ i, decode w ≠ .legal i :=
  ⟨pendingWord 0x00000b10 [], 0x00000b10, by decide, rfl, rfl, rfl, not_legal (why := .roundOutOfRange) (by decide)⟩

/-- A busy state meets the invariant. -/
theorem busyNop_inv : busyNop.Inv :=
  ⟨by decide, by decide, fun _ => ⟨rfl, rfl, rfl⟩, fun h => (by decide : busyNop.busy ≠ false).elim h,
    fun h => (by decide : busyNop.keyValid ≠ true).elim h, by decide⟩

theorem witness_StepKeepsTheInvariant : ∃ s t : State, s.Inv ∧ step s = .next t := ⟨busyNop, _, busyNop_inv, rfl⟩

theorem witness_StepNeverStopsUnderTheInvariant : ∃ s : State, s.Inv := ⟨busyNop, busyNop_inv⟩

/-- KeyValidChangesOnlyByItsEvents: KEYEXP, a reset, and a write to the first and the last KEY register. -/
theorem witness_KeyValidChanges :
    (∃ t, step (pendingWord 1 []) = .next t ∧ t.keyValid ≠ (pendingWord 1 []).keyValid) ∧
    (∃ t, step { idleWith [.reset] with keyValid := true } = .next t ∧ t.keyValid ≠ true) ∧
    (∃ t, step { idleWith [.host (memWrite Config.default 0x020 5)] with keyValid := true } = .next t ∧
      t.keyValid ≠ true) ∧
    (∃ t, step { idleWith [.host (memWrite Config.default 0x02C 5)] with keyValid := true } = .next t ∧
      t.keyValid ≠ true) :=
  ⟨⟨_, rfl, by decide⟩, ⟨_, rfl, by decide⟩, ⟨_, rfl, by decide⟩, ⟨_, rfl, by decide⟩⟩

/-- OvrChangesOnlyByItsEvents: the ends of the two ranges of offsets, a reset, a STATUS write. -/
theorem witness_OvrChanges :
    (∃ t, step (pendingWord 1 [.host (memWrite Config.default 0x00C 5)]) = .next t ∧ t.ovr ≠ false) ∧
    (∃ t, step (pendingWord 1 [.host (memWrite Config.default 0x04C 5)]) = .next t ∧ t.ovr ≠ false) ∧
    (∃ t, step (pendingWord 1 [.host (memWrite Config.default 0x1000 5)]) = .next t ∧ t.ovr ≠ false) ∧
    (∃ t, step (pendingWord 1 [.host (memWrite Config.default 0x1FFC 5)]) = .next t ∧ t.ovr ≠ false) ∧
    (∃ t, step { idleWith [.reset] with ovr := true } = .next t ∧ t.ovr ≠ true) ∧
    (∃ t, step { idleWith [.host (memWrite Config.default 0x008 8)] with ovr := true } = .next t ∧ t.ovr ≠ true) :=
  ⟨⟨_, rfl, by decide⟩, ⟨_, rfl, by decide⟩, ⟨_, rfl, by decide⟩, ⟨_, rfl, by decide⟩, ⟨_, rfl, by decide⟩, ⟨_, rfl, by decide⟩⟩

/-- EveryCommandCompletesAndErrorsChangeNothing: a nonzero code occurs. -/
theorem witness_ErrorsOccur : nextIs (exec .cbcenc State.reset) (fun t => t.err != 0) = true := by decide

/-- CommandsWriteOnlyTheirRegisters: NOP meets the condition of every clause. -/
theorem witness_CommandsWriteOnly : (∃ t, exec .nop State.reset = .next t) ∧
    Instr.nop ∉ [.keyexp, .xtime, .gmul, .pad, .unpad, .cbcenc, .cbcdec true] ∧
    writesBlk .nop = false ∧ writesBuf .nop = false := ⟨⟨_, rfl⟩, by decide⟩

/-- ErrorCodeFollowsThePriority, on the states of 95_test_vectors.md 3.9: illegal word; key before length; length 17,
0 and 4112; UNPAD at 4097; PAD at 4096; UNPAD at 0; no error. -/
theorem witness_Priority :
    ((pendingWord 0x00000124 []).busy = true ∧ ∀ i, decode 0x00000124 ≠ .legal i) ∧
    (needsKey .cbcenc = true ∧ { State.reset with len := 17 }.keyValid = false) ∧
    (∀ l ∈ [0, 17, 4112], ¬(0 < l ∧ l % 16 = 0 ∧ l ≤ Config.default.bufSize)) ∧
    Config.default.bufSize < (4097#32).toNat ∧ Config.default.bufSize ≤ (4096#32).toNat ∧
    badPadding State.reset ∧
    ¬(needsKey .gmul = true) ∧ isCbc .gmul = false ∧ (Instr.gmul).wf = true :=
  ⟨⟨rfl, not_legal (why := .reservedBits) (by decide)⟩, by decide, by decide, by decide, by decide, .inl rfl, by decide,
    rfl, rfl⟩

/-- KeyNotExpandedIsReported: the reset state, for each of the five commands. -/
theorem witness_KeyNotExpanded : State.reset.keyValid = false ∧
    ∀ i ∈ [Instr.encb, .decb, .cbcenc, .cbcdec true, .addrk 10], i.wf = true := by decide

/-- `onlyWordIs`, for each statement that uses it: a word of the same OP that is another word. -/
theorem witness_onlyWordIs : [0, 1, 2, 3, 4, 6, 7, 8, 9, 10, 11, 12, 13, 14, 15].all (fun k =>
    let v : Word := BitVec.ofNat 32 (0x100 + k)
    let w : Word := BitVec.ofNat 32 k
    opField v == opField w && v != w && decode v == .illegal .rndOnOtherOp) = true := by decide

/-- GmulIsFieldMultiplication: the inverse pair of R91, and the largest multiplier of the 5-bit loop. -/
theorem witness_Gmul : (0x53 : Byte) ≠ 0 ∧ gmul 0x53 0xCA = 1 ∧ (0x1F : Byte).toNat < 32 ∧
    gmulLoop 5 0 0x57 0x20 0 ≠ gmul 0x57 0x20 := by decide +kernel

/-- SboxIsAffineOfFieldInverse: 0, and an inverse pair. -/
theorem witness_SboxAffine : ((0 : Byte) = 0 ∧ (0 : Byte) = 0) ∧ gmul 0x53 0xCA = 1 ∧ sbox 0 = 0x63 ∧
    sbox 0x53 = 0xed := by decide +kernel

/-- RconIsTheTable: both ends of the recurrence (95_test_vectors.md 3.2). -/
theorem witness_Rcon : rcon 2 = 0x02 ∧ rcon 9 = 0x1b ∧ rcon 10 = 0x36 := by decide +kernel

/-- AddrkAddsARoundKey: rounds 0 and 10, a word with RND = 11, and both values of KEY_VALID. -/
theorem witness_Addrk : (0#4).toNat ≤ 10 ∧ (10#4).toNat ≤ 10 ∧ (0x00000b10#32).extractLsb' 0 5 = 0x10 ∧
    (∀ r ≤ 10, (0x00000b10#32).toNat ≠ 0x10 + 0x100 * r) ∧ State.reset.keyValid = false ∧
    (keyed keyV1).keyValid = true := ⟨by decide, by decide, by decide, by decide +kernel, rfl, rfl⟩

/-- KeyExpansionIsTheRecurrence: the first, the second and the last word it gives, in both cases of `i % 4`. -/
theorem witness_KeyExpansion : (4 ≤ 4 ∧ 4 < 44 ∧ 4 % 4 = 0) ∧ (4 ≤ 5 ∧ 5 % 4 ≠ 0) ∧ (4 ≤ 43 ∧ 43 < 44) := by decide

/-- BlockCommandsCipherBlk, CbcencChainsEveryBlock, CbcdecUnchainsEveryBlock, CbcRoundTripRestoresTheBuffer: with a
key, one block and the whole buffer; the lengths 0, 17 and 4112; no key. -/
theorem witness_Cbc : (keyed keyV1).keyValid = true ∧ State.reset.keyValid = false ∧
    (∀ l ∈ [16, 4096], 0 < (BitVec.ofNat 32 l).toNat ∧ (BitVec.ofNat 32 l).toNat % 16 = 0 ∧
      (BitVec.ofNat 32 l).toNat ≤ Config.default.bufSize) ∧
    (∀ l ∈ [0, 17, 4112], ¬(0 < l ∧ l % 16 = 0 ∧ l ≤ Config.default.bufSize)) ∧
    ((0x00000105#32).extractLsb' 0 5 = 0x05 ∧ (0x00000105#32) ≠ 0x00000005 ∧ (0x00000105#32) ≠ 0x00001005) :=
  ⟨rfl, rfl, by decide, by decide, by decide⟩

/-- PadAppendsPadding: one byte is left, and none. -/
theorem witness_Pad : Config.default.wf ∧ Config.default.bufSize < 4096 + (16 - 4096 % 16) ∧
    4095 + (16 - 4095 % 16) ≤ Config.default.bufSize := by decide

/-- BUF[15] = `v`, LEN = 16. -/
def lastByte (v : Byte) : State := tail State.reset 16 15 [v]

/-- One padding byte of value 1 is valid. -/
theorem not_badPadding : ¬ badPadding (lastByte 1#8) := by
  have h1 : (lastByte 1#8).len.toNat = 16 := by decide +kernel
  have h2 : (bufByte (lastByte 1#8) 15).toNat = 1 := by decide +kernel
  simp only [badPadding, h1, Nat.reduceSub, h2]
  rintro (h | h | h | h | ⟨j, hj1, hj2, hj3⟩)
  · omega
  · omega
  · omega
  · omega
  · obtain rfl : j = 15 := by omega
    exact hj3 h2

/-- UnpadStripsValidPadding: too long; no data; a last byte of 0, of 17, above LEN; a wrong byte; a valid one. -/
theorem witness_Unpad :
    Config.default.bufSize < { State.reset with len := 4097 }.len.toNat ∧ (4096#32).toNat ≤ Config.default.bufSize ∧
    badPadding State.reset ∧ badPadding (lastByte 0) ∧ badPadding (lastByte 17) ∧
    badPadding (tail State.reset 2 0 [3, 3]) ∧ badPadding (tail State.reset 2 0 [1, 2]) ∧
    ¬ badPadding (lastByte 1#8) :=
  ⟨by decide, by decide, .inl rfl, .inr (.inl (by decide +kernel)), .inr (.inr (.inl (by decide +kernel))),
    .inr (.inr (.inr (.inl (by decide +kernel)))),
    .inr (.inr (.inr (.inr ⟨0, by decide +kernel, by decide +kernel, by decide +kernel⟩))), not_badPadding⟩

/-- PadThenUnpadRestoresTheLength: the longest data PAD takes, and last bytes 0 and 17. -/
theorem witness_PadThenUnpad : 4095 + (16 - 4095 % 16) ≤ Config.default.bufSize ∧
    (0 < (lastByte 0).len.toNat ∧ (lastByte 0).len.toNat ≤ Config.default.bufSize ∧
      (bufByte (lastByte 0) 15).toNat = 0) ∧ 16 < (bufByte (lastByte 17) 15).toNat := by decide +kernel

/-- BusErrorChangesNoState: a misaligned access, a narrow one, a wide one, at both ends of the aperture. -/
theorem witness_BusError : ∀ a ∈ [Access.read 32 0x022, .read 8 0x020, .write 64 0xFFF8 0, .write 16 0xFFFE 0],
    inAperture Config.default (accessAddr a) = true ∧ (accessWidth a ≠ 32 ∨ accessAddr a % 4 ≠ 0) := by decide

/-- OnlyTheApertureIsTheEngines: the first and last word inside, and a read and a write beside them. -/
theorem witness_Aperture :
    let s : State := { State.reset with cfg := ⟨0x10000, 4096⟩ }
    (hostAccess (.read 32 0x10000) s).resp ≠ some .unselected ∧ (hostAccess (.read 32 0x1FFFC) s).resp ≠ some .unselected ∧
    (hostAccess (.read 32 0xFFFC) s).resp = some .unselected ∧
    (hostAccess (.write 32 0x20000 1) s).resp = some .unselected := by decide +kernel

/-- The idle host access statements: idle states with KEY_VALID 0 and 1, and a first and a last word of the BUF window. -/
theorem witness_Idle : State.reset.busy = false ∧ { State.reset with keyValid := true }.busy = false ∧
    State.reset.cfg.wf ∧ 4 * 0 < Config.default.bufSize ∧
    4 * 1023 < Config.default.bufSize ∧ ¬ 4 * 1024 < Config.default.bufSize := by decide

/-- BusyEngineHidesTheDataRegion and BusyAnswersRevealNoData: a busy state; the ends of each range of offsets. -/
theorem witness_Busy : busyNop.busy = true ∧ (pendingWord 1 []).busy = true ∧
    (∀ off ∈ [0x000, 0x004, 0x008, 0x00C, 0x01C, 0x04C, 0x050, 0x0FC, 0x100, 0x1AC, 0x1B0, 0xFFC, 0x1000, 0x1FFC, 0x2000,
      0xFFFC], legalOffset off) ∧
    busyNop.cfg = (pendingWord 1 []).cfg ∧ busyNop.pending ≠ (pendingWord 1 []).pending := by decide

/-- ReservedOffsetsReadZeroIgnoreWrites: the ends of the three reserved ranges. -/
theorem witness_Reserved : ∀ off ∈ [0x050, 0x0FC, 0x1B0, 0xFFC, 0x2000, 0xFFFC], legalOffset off ∧
    ((0x050 ≤ off ∧ off < 0x100) ∨ (0x1B0 ≤ off ∧ off < 0x1000) ∨ 0x1000 + State.reset.cfg.bufSize ≤ off) := by decide

/-- IrqFollowsDoneAndEnable: the line up, and the words its clauses name. -/
theorem witness_Irq : irq { State.reset with ie := true, done := true } = true ∧
    (∃ t, exec .nop State.reset = .next t) ∧ (2#32).getLsbD 1 = true ∧ (0#32).getLsbD 0 = false :=
  ⟨by decide, ⟨_, rfl⟩, by decide, by decide⟩

/-- The two statements on the reset turn: a command pending when it comes. -/
theorem witness_Reset : (pendingWord 1 [.reset]).cfg.wf ∧ (pendingWord 1 [.reset]).agenda = .reset :: [] ∧
    (pendingWord 1 [.reset]).busy = true ∧ 4095 < (pendingWord 1 [.reset]).cfg.bufSize := by decide

theorem witness_OutcomeDoesNotDependOnLatency : busyNop.busy = true ∧ busyNop.pending.isSome = true := by decide

/-- PendingCommandCompletes: two host accesses still to come. -/
theorem witness_PendingCommandCompletes : ∃ (s : State) (as : List Access), s.Inv ∧ s.busy = true ∧
    s.agenda = as.map .host ∧ as.length = 2 :=
  ⟨{ busyNop with agenda := [.host (.read 32 8), .host (.write 32 16 5)] }, [.read 32 8, .write 32 16 5],
    ⟨busyNop_inv.config, busyNop_inv.memory, busyNop_inv.busyState, busyNop_inv.idleState, busyNop_inv.schedule,
      busyNop_inv.error⟩, rfl, rfl, rfl⟩

end Sys2Proof.Tests
end

section
/-! PROOFS. The statements on the state and its registers (10_state.md). First the layer they share: what a legal access does, what a command leaves unchanged, and `StepEffect`, everything a step that goes on can have done. -/

namespace Sys2Proof.Machine

/-! ### Host accesses -/

/-- A read of a register that the engine does not hide (20_memory.md R56, R58). -/
theorem hostAccess_memRead_shown (s : State) {off : Nat} {r : Reg} (ho : legalOffset off)
    (hr : regAt s.cfg.bufSize off = r) (hs : (s.busy && inDataRegion r) = false) :
    hostAccess (memRead s.cfg off) s = respond (.readData (readReg r s)) s := by
  rw [hostAccess_memRead s ho, hr, busRead, hs, if_neg (by decide)]

/-- A write to a register that the engine does not hide (R57, R58). -/
theorem hostAccess_memWrite_taken (s : State) (v : Word) {off : Nat} {r : Reg} (ho : legalOffset off)
    (hr : regAt s.cfg.bufSize off = r) (hs : (s.busy && inDataRegion r) = false) :
    hostAccess (memWrite s.cfg off v) s = respond .writeDone (writeReg r v s) := by
  rw [hostAccess_memWrite s v ho, hr, busWrite, hs, if_neg (by decide)]

/-- What a legal write does: nothing, an overrun, or the write of the register. -/
theorem busWrite_cases (r : Reg) (v : Word) (s : State) :
    busWrite r v s = s ∨
    (s.busy = true ∧ inDataRegion r = true ∧ isReadOnlyData r = false ∧ busWrite r v s = setOvr s) ∨
    ((s.busy && inDataRegion r) = false ∧ busWrite r v s = writeReg r v s) := by
  unfold busWrite
  cases hs : s.busy && inDataRegion r with
  | false => exact .inr (.inr ⟨rfl, rfl⟩)
  | true =>
    obtain ⟨hb, hd⟩ := Bool.and_eq_true_iff.mp hs
    cases isReadOnlyData r with
    | true => exact .inl rfl
    | false => exact .inr (.inl ⟨hb, hd, rfl, rfl⟩)

/-- What a host access does: it is only answered, or it is a legal write. -/
theorem hostAccess_cases (a : Access) (s : State) :
    (∃ r, hostAccess a s = respond r s) ∨
    ∃ off v, legalOffset off ∧ a = memWrite s.cfg off v ∧
      hostAccess a s = respond .writeDone (busWrite (regAt s.cfg.bufSize off) v s) := by
  cases a with
  | read width addr =>
    simp only [hostAccess]
    split <;> [split; skip] <;> exact .inl ⟨_, rfl⟩
  | write width addr v =>
    by_cases ha : inAperture s.cfg addr = true
    · by_cases hl : legalAccess width (addr - s.cfg.engineBase) = true
      · have hlo : s.cfg.engineBase ≤ addr ∧ addr < s.cfg.engineBase + 0x10000 := by simpa [inAperture] using ha
        have hw : width = 32 ∧ (addr - s.cfg.engineBase) % 4 = 0 := by simpa [legalAccess] using hl
        have haddr : s.cfg.engineBase + (addr - s.cfg.engineBase) = addr := by omega
        exact .inr ⟨addr - s.cfg.engineBase, v, ⟨by omega, hw.2⟩, by rw [memWrite, hw.1, haddr],
          by simp [hostAccess, ha, hl]⟩
      · exact .inl ⟨.writeError (addr - s.cfg.engineBase), by simp [hostAccess, ha, hl]⟩
    · exact .inl ⟨.unselected, by simp [hostAccess, ha]⟩

/-- Only the offset 0x008 is STATUS (10_state.md R17). -/
theorem off_eq_of_regAt_status {size off : Nat} (h : regAt size off = .status) : off = 0x008 := by
  have hc := regAt_cases size off
  simpa [h, inDataRegion] using hc

/-- No KEY register stands outside 0x020..0x02C (R17). -/
theorem regAt_ne_key (size : Nat) {off : Nat} (hk : ¬(0x020 ≤ off ∧ off < 0x030)) (n : Fin 4) :
    regAt size off ≠ .key n := by
  unfold regAt
  rw [dif_neg hk]
  simp only [ne_eq, ite_eq_iff, dite_eq_iff, reduceCtorEq, and_false, exists_false, or_false, not_false_eq_true]

/-- The aligned offset of a KEY register (R17). -/
theorem off_eq_of_regAt_key {size off : Nat} {n : Fin 4} (h : regAt size off = .key n) (ha : off % 4 = 0) :
    off = 0x020 + 4 * n.val := by
  by_cases hk : 0x020 ≤ off ∧ off < 0x030
  · have hoff : off = 0x020 + 4 * ((off - 0x020) / 4) := by omega
    have hreg := regAt_key size ⟨(off - 0x020) / 4, by omega⟩
    rw [← hoff, h] at hreg
    cases hreg
    exact hoff
  · exact absurd h (regAt_ne_key size hk n)

/-- The reserved offsets (R17, R39). -/
theorem regAt_eq_reserved {size off : Nat}
    (h : (0x050 ≤ off ∧ off < 0x100) ∨ (0x1B0 ≤ off ∧ off < 0x1000) ∨ 0x1000 + size ≤ off) :
    regAt size off = .reserved := by
  rcases regAt_cases size off with ⟨_, _⟩ | ⟨_, _⟩ | ⟨_, _⟩ | ⟨_, _, _⟩ | ⟨_, _, _⟩ | ⟨hr, _⟩
  case inr.inr.inr.inr.inr => exact hr
  all_goals omega

/-! ### What a write of a register leaves unchanged -/

/-- Only a KEY write changes KEY_VALID (R22, R34). -/
theorem writeReg_keyValid {r : Reg} (hr : ∀ n, r ≠ .key n) (v : Word) (s : State) :
    (writeReg r v s).keyValid = s.keyValid := by
  cases r with
  | key n => exact absurd rfl (hr n)
  | _ => rfl

/-- Only a STATUS write changes OVR (R23). -/
theorem writeReg_ovr {r : Reg} (hr : r ≠ .status) (v : Word) (s : State) : (writeReg r v s).ovr = s.ovr := by
  cases r with
  | status => exact absurd rfl hr
  | _ => rfl

/-! ### What a command leaves unchanged -/

section Effects

variable {i : Instr} {s t : State}

/-- No command writes these fields (R44, R46). -/
theorem Effect.frame (h : Effect i s t) :
    t.cfg = s.cfg ∧ t.ie = s.ie ∧ t.ovr = s.ovr ∧ t.gfA = s.gfA ∧ t.gfB = s.gfB ∧ t.key = s.key ∧
      t.agenda = s.agenda ∧ t.resp = s.resp := by
  cases h <;> exact ⟨rfl, rfl, rfl, rfl, rfl, rfl, rfl, rfl⟩

/-- What every completion writes (47_system.md R135). -/
theorem Effect.completed (h : Effect i s t) : t.busy = false ∧ t.done = true ∧ t.pending = none := by
  cases h <;> exact ⟨rfl, rfl, rfl⟩

theorem errNone_produced : errNone ∈ producedCodes := List.mem_cons_self

theorem Effect.err_produced (h : Effect i s t) : t.err ∈ producedCodes := by
  cases h with
  | error c hc => exact List.mem_cons_of_mem _ hc
  | _ => exact errNone_produced

theorem Effect.schedule_kept (h : Effect i s t) (hi : i ≠ .keyexp) : t.rk = s.rk ∧ t.keyValid = s.keyValid := by
  cases h with
  | schedule hk => exact absurd hk hi
  | _ => exact ⟨rfl, rfl⟩

theorem Effect.gfR_kept (h : Effect i s t) (hx : i ≠ .xtime) (hg : i ≠ .gmul) : t.gfR = s.gfR := by
  cases h with
  | product r hp => exact (hp.elim hx hg).elim
  | _ => rfl

theorem Effect.len_kept (h : Effect i s t) (hp : i ≠ .pad) (hu : i ≠ .unpad) : t.len = s.len := by
  cases h with
  | padded m n hn _ => exact (hn.elim hp hu).elim
  | _ => rfl

theorem Effect.iv_kept (h : Effect i s t) (he : i ≠ .cbcenc) (hd : i ≠ .cbcdec true) : t.iv = s.iv := by
  cases h with
  | chained m b hc _ => exact (hc.elim he hd).elim
  | _ => rfl

theorem Effect.blk_kept (h : Effect i s t) (hi : writesBlk i = false) : t.blk = s.blk := by
  cases h with
  | block b hb => exact absurd (hb.symm.trans hi) (by decide)
  | _ => rfl

theorem Effect.mem_kept (h : Effect i s t) (hi : writesBuf i = false) : t.mem = s.mem := by
  cases h with
  | chained m b hc _ => rcases hc with rfl | rfl <;> exact absurd hi (by decide)
  | unchained m hc _ => subst hc; exact absurd hi (by decide)
  | padded m n hn _ => rcases hn with rfl | rfl <;> exact absurd hi (by decide)
  | _ => rfl

/-- A command keeps BUF in canonical form. -/
theorem Effect.mem_wf (h : Effect i s t) (hm : s.mem.wf s.cfg.bufSize) : t.mem.wf s.cfg.bufSize := by
  cases h with
  | chained m b _ hw => exact hw hm
  | unchained m _ hw => exact hw hm
  | padded m n _ hw => exact hw hm
  | _ => exact hm

/-- A command that leaves KEY_VALID set leaves RK as the schedule of KEY (10_state.md R22). -/
theorem Effect.schedule_of_keyValid (h : Effect i s t) (hs : s.keyValid = true → s.rk = keyExpansion s.key)
    (hk : t.keyValid = true) : t.rk = keyExpansion t.key := by
  cases h with
  | schedule _ => rfl
  | _ => exact hs hk

end Effects

/-! ### Decoding is undone by encoding -/

/-- A legal word has no reserved bit set (30_encoding.md R74). -/
theorem rsvFields_of_legal {w : Word} {i : Instr} (h : decode w = .legal i) : rsv0Field w = 0 ∧ rsv1Field w = 0 := by
  by_contra hc
  have hr : rsv0Field w ≠ 0 ∨ rsv1Field w ≠ 0 := by tauto
  rw [decode, if_pos hr] at h
  cases h

/-- A decoded command encodes to its word, over the 1024 words without reserved bits. -/
theorem encode_of_decode_commandWord : ∀ (op : BitVec 5) (rnd : BitVec 4) (u : Bool),
    ∀ i ∈ (decode (commandWord op rnd u)).instr?, encode i = commandWord op rnd u := by
  decide +kernel

theorem encode_of_decode {w : Word} {i : Instr} (h : decode w = .legal i) : encode i = w := by
  obtain ⟨h0, h1⟩ := rsvFields_of_legal h
  have hw := commandWord_of_fields h0 h1
  rw [hw] at h
  rw [hw]
  exact encode_of_decode_commandWord _ _ _ i (by rw [h]; rfl)

/-! ### What a step can do -/

/-- The states a step that goes on can give. -/
inductive StepEffect (s : State) : State → Prop where
  | idle : StepEffect s (dropTurn s)
  | command {w : Word} {i : Instr} {t : State} (hn : engineIsNext s = true) (hb : s.busy = true)
      (hp : s.pending = some w) (hd : decode w = .legal i) (he : Effect i (dropTurn s) t) : StepEffect s t
  | illegal : StepEffect s (completedWith errIllegalCommand (dropTurn s))
  | answer (r : Response) : StepEffect s (respond r (dropTurn s))
  | write {off : Nat} {v : Word} (ho : legalOffset off)
      (hh : s.agenda.head? = some (.host (memWrite s.cfg off v))) :
      StepEffect s (respond .writeDone (busWrite (regAt s.cfg.bufSize off) v (dropTurn s)))
  | reset (hh : s.agenda.head? = some .reset) : StepEffect s (resetEngine (dropTurn s))

theorem stepEffect_of_step {s t : State} (hc : s.cfg.wf) (h : step s = .next t) : StepEffect s t := by
  rcases step_cases hc with ⟨hn, hs⟩ | ⟨a, ha, hs⟩ | ⟨hr, hs⟩
  · rcases engineTurn_cases (dropTurn s) with ⟨_, he⟩ | ⟨_, _, he⟩ | ⟨w, i, hb, hp, hd, he⟩ | ⟨w, y, _, _, _, he⟩
    · cases (h.symm.trans hs).trans he
      exact .idle
    · cases (h.symm.trans hs).trans he
    · exact .command hn hb hp hd (effect_of_exec ((he.symm.trans hs.symm).trans h))
    · cases (h.symm.trans hs).trans he
      exact .illegal
  · cases h.symm.trans hs
    rcases hostAccess_cases a (dropTurn s) with ⟨r, he⟩ | ⟨off, v, ho, rfl, he⟩
    · rw [he]; exact .answer r
    · rw [he]; exact .write ho ha
  · cases h.symm.trans hs
    exact .reset hr

/-! ### The invariant -/

section Invariant

variable {s : State}

theorem inv_dropTurn (h : s.Inv) : (dropTurn s).Inv := { h with }

theorem inv_respond (h : s.Inv) (r : Response) : (respond r s).Inv := { h with }

theorem inv_setOvr (h : s.Inv) : (setOvr s).Inv := { h with }

theorem inv_resetEngine (h : s.Inv) : (resetEngine s).Inv where
  config := h.config
  memory := empty_wf _ _
  busyState := by simp
  idleState := by simp
  schedule := by simp
  error := by rw [resetEngine_err]; decide

/-- A completion that changed nothing else. -/
theorem inv_completedWith (h : s.Inv) {c : ErrCode} (hc : c ∈ producedCodes) : (completedWith c s).Inv :=
  { h with
    busyState := fun hb => nomatch hb
    idleState := fun _ => rfl
    error := hc }

/-- Every command keeps the invariant. -/
theorem inv_of_effect {i : Instr} {t : State} (h : s.Inv) (he : Effect i s t) : t.Inv := by
  obtain ⟨hcfg, _⟩ := he.frame
  obtain ⟨hbusy, _, hpending⟩ := he.completed
  exact {
    config := hcfg ▸ h.config
    memory := hcfg ▸ he.mem_wf h.memory
    busyState := fun hb => by simp [hbusy] at hb
    idleState := fun _ => hpending
    schedule := he.schedule_of_keyValid h.schedule
    error := he.err_produced }

/-- A write the engine does not hide keeps the invariant: a STATUS write may find the engine busy, a CMD, KEY or BUF
write finds it idle. -/
theorem inv_writeReg (h : s.Inv) (r : Reg) (v : Word) : (writeReg r v s).Inv := by
  cases r with
  | status =>
    refine { h with busyState := fun hb => ?_ }
    obtain ⟨hdone, herr, hpending⟩ := h.busyState hb
    exact ⟨by simp [writeReg, hdone], herr, hpending⟩
  | cmd =>
    exact { h with
      busyState := fun _ => ⟨rfl, rfl, rfl⟩
      idleState := fun hb => nomatch hb
      error := errNone_produced }
  | key n => exact { h with schedule := fun hk => nomatch hk }
  | buf k => exact { h with memory := writeWord_wf k v h.memory }
  | _ => exact { h with }

theorem inv_busWrite (h : s.Inv) (r : Reg) (v : Word) : (busWrite r v s).Inv := by
  rcases busWrite_cases r v s with he | ⟨_, _, _, he⟩ | ⟨_, he⟩ <;> rw [he]
  · exact h
  · exact inv_setOvr h
  · exact inv_writeReg h r v

theorem inv_of_stepEffect {t : State} (h : s.Inv) (he : StepEffect s t) : t.Inv := by
  have hd := inv_dropTurn h
  cases he with
  | idle => exact hd
  | command _ _ _ _ he => exact inv_of_effect hd he
  | illegal => exact inv_completedWith hd (by decide)
  | answer r => exact inv_respond hd r
  | write _ _ => exact inv_respond (inv_busWrite hd _ _) _
  | reset _ => exact inv_resetEngine hd

theorem writeReg_cfg (r : Reg) (v : Word) (s : State) : (writeReg r v s).cfg = s.cfg := by
  cases r <;> rfl

theorem busWrite_cfg (r : Reg) (v : Word) (s : State) : (busWrite r v s).cfg = s.cfg := by
  rcases busWrite_cases r v s with he | ⟨_, _, _, he⟩ | ⟨_, he⟩ <;> rw [he]
  · exact setOvr_cfg s
  · exact writeReg_cfg r v s

theorem cfg_of_stepEffect {t : State} (he : StepEffect s t) : t.cfg = s.cfg := by
  cases he with
  | command _ _ _ _ he => exact he.frame.1
  | write _ _ => exact busWrite_cfg _ _ _
  | _ => rfl

end Invariant

/-- Settles O9: each of the six things a step can have done keeps the invariant. -/
theorem stepKeepsTheInvariant : Obligations.StepKeepsTheInvariant := by
  intro s t h hs
  have he := stepEffect_of_step h.config hs
  exact ⟨inv_of_stepEffect h he, cfg_of_stepEffect he⟩

/-- Settles O10: a stop needs an ill-formed BUF_SIZE, or BUSY = 1 with PENDING empty. -/
theorem stepNeverStopsUnderTheInvariant : Obligations.StepNeverStopsUnderTheInvariant := by
  intro s h
  rcases step_cases h.config with ⟨_, hs⟩ | ⟨a, _, hs⟩ | ⟨_, hs⟩
  · rw [hs]
    rcases engineTurn_cases (dropTurn s) with ⟨_, he⟩ | ⟨hb, hp, _⟩ | ⟨_, i, _, _, _, he⟩ | ⟨_, _, _, _, _, he⟩
    · exact ⟨_, he⟩
    · obtain ⟨_, _, hsome⟩ := (inv_dropTurn h).busyState hb
      rw [hp] at hsome
      cases hsome
    · obtain ⟨t, ht, _⟩ := exec_effect i (dropTurn s)
      exact ⟨t, he.trans ht⟩
    · exact ⟨_, he⟩
  · exact ⟨_, hs⟩
  · exact ⟨_, hs⟩

/-! ### The events of KEY_VALID and OVR -/

/-- Settles O12: of all a step can do, only KEYEXP, a KEY write and a reset touch KEY_VALID. -/
theorem keyValidChangesOnlyByItsEvents : Obligations.KeyValidChangesOnlyByItsEvents := by
  intro s t hc hs hne
  cases stepEffect_of_step hc hs with
  | idle => exact absurd rfl hne
  | illegal => exact absurd rfl hne
  | answer r => exact absurd rfl hne
  | reset hh => exact .inr (.inl ⟨rfl, hh⟩)
  | @command w i _ hn hb hp hd he =>
    have hi : i = .keyexp := by
      by_contra hi
      exact hne (he.schedule_kept hi).2
    subst hi
    have hw : w = 0x00000001 := (encode_of_decode hd).symm
    have hk : t.keyValid = true := by
      cases he with
      | schedule _ => rfl
      | _ => exact absurd rfl hne
    exact .inl ⟨hk, hn, hb, hw ▸ hp⟩
  | @write off v ho hh =>
    rw [respond_keyValid] at hne ⊢
    rcases busWrite_cases (regAt s.cfg.bufSize off) v (dropTurn s) with he | ⟨_, _, _, he⟩ | ⟨hv, he⟩ <;>
      rw [he] at hne ⊢
    · exact absurd rfl hne
    · exact absurd rfl hne
    · have hkey : ∃ n, regAt s.cfg.bufSize off = .key n := by
        by_contra hno
        exact hne (writeReg_keyValid (fun n hn => hno ⟨n, hn⟩) v _)
      obtain ⟨n, hn⟩ := hkey
      rw [hn] at hv ⊢
      have hb : s.busy = false := by simpa [inDataRegion] using hv
      exact .inr (.inr ⟨rfl, hb, n, v, by rw [← off_eq_of_regAt_key hn ho.2]; exact hh⟩)

/-- Settles O13: of all a step can do, only a dropped write, a STATUS write and a reset touch OVR. -/
theorem ovrChangesOnlyByItsEvents : Obligations.OvrChangesOnlyByItsEvents := by
  intro s t hc hs hne
  cases stepEffect_of_step hc hs with
  | idle => exact absurd rfl hne
  | illegal => exact absurd rfl hne
  | answer r => exact absurd rfl hne
  | reset hh => exact .inr (.inl ⟨rfl, hh⟩)
  | command _ _ _ _ he =>
    obtain ⟨_, _, hovr, _⟩ := he.frame
    exact absurd hovr hne
  | @write off v ho hh =>
    rw [respond_ovr] at hne ⊢
    rcases busWrite_cases (regAt s.cfg.bufSize off) v (dropTurn s) with he | ⟨hb, hd, hr, he⟩ | ⟨_, he⟩ <;>
      rw [he] at hne ⊢
    · exact absurd rfl hne
    · have hoff : (0x00C ≤ off ∧ off < 0x050 ∧ off ≠ 0x01C) ∨ (0x1000 ≤ off ∧ off < 0x1000 + s.cfg.bufSize) := by
        rcases regAt_cases s.cfg.bufSize off with ⟨h, _⟩ | ⟨h, _⟩ | ⟨h, _⟩ | ⟨_, _, h⟩ | ⟨_, h, _⟩ | ⟨h, _⟩
        case inr.inr.inr.inl => exact h
        all_goals simp [h, inDataRegion] at hd hr
      exact .inl ⟨rfl, hb, off, v, ho, hoff, hh⟩
    · have hst : regAt s.cfg.bufSize off = .status := by
        by_contra hno
        exact hne (writeReg_ovr hno v _)
      obtain rfl := off_eq_of_regAt_status hst
      have hw : (s.ovr && !v.getLsbD 3) ≠ s.ovr := by rw [hst] at hne; exact hne
      have hclears : ∀ o b : Bool, (o && !b) ≠ o → (o && !b) = false ∧ b = true := by decide
      obtain ⟨hlow, hbit⟩ := hclears _ _ hw
      exact .inr (.inr ⟨by rw [hst]; exact hlow, v, hbit, hh⟩)

/-- Settles O15: one frame fact for each register of the table of writers. -/
theorem commandsWriteOnlyTheirRegisters : Obligations.CommandsWriteOnlyTheirRegisters := by
  intro i s t h
  have he := effect_of_exec h
  obtain ⟨hcfg, hie, hovr, hgfA, hgfB, hkey, hagenda, hresp⟩ := he.frame
  exact ⟨hcfg, hie, hovr, hgfA, hgfB, hkey, hagenda, hresp, he.schedule_kept, he.gfR_kept, he.len_kept, he.iv_kept,
    he.blk_kept, he.mem_kept⟩

/-! ### The register map -/

/-- Settles O47: RESERVED lies outside the data region, so BUSY makes no difference. -/
theorem reservedOffsetsReadZeroIgnoreWrites : Obligations.ReservedOffsetsReadZeroIgnoreWrites := by
  intro s off v ho h
  have hr := regAt_eq_reserved h
  have hs : (s.busy && inDataRegion .reserved) = false := Bool.and_false _
  exact ⟨hostAccess_memRead_shown s ho hr hs, hostAccess_memWrite_taken s v ho hr hs⟩

/-- An access to STATUS is never hidden (20_memory.md R58). -/
theorem status_shown (s : State) : (s.busy && inDataRegion .status) = false := Bool.and_false _

theorem hostAccess_write_status (s : State) (v : Word) :
    hostAccess (memWrite s.cfg 0x008 v) s = respond .writeDone (writeStatus v s) :=
  hostAccess_memWrite_taken s v (by decide) (regAt_status _) (status_shown s)

theorem hostAccess_write_ctrl (s : State) (v : Word) :
    hostAccess (memWrite s.cfg 0x004 v) s = respond .writeDone (writeCtrl v s) :=
  hostAccess_memWrite_taken s v (by decide) (regAt_ctrl _) (Bool.and_false _)

/-- Only bits 1 and 3 of a STATUS write matter (10_state.md R25, R26). -/
theorem writeStatus_mask (v : Word) (s : State) : writeStatus (v &&& 0x00000F0F) s = writeStatus v s := by
  simp [writeStatus]

/-- The layout of STATUS (R25). -/
theorem statusWord_fields (s : State) :
    (statusWord s).getLsbD 0 = s.busy ∧ (statusWord s).getLsbD 1 = s.done ∧ (statusWord s).getLsbD 2 = s.keyValid ∧
    (statusWord s).getLsbD 3 = s.ovr ∧ (statusWord s).extractLsb' 8 4 = s.err ∧
    (statusWord s).extractLsb' 4 4 = 0 ∧ (statusWord s).extractLsb' 12 20 = 0 := by
  have hfields : ∀ (b d k o : Bool) (e : ErrCode),
      let w := e.setWidth 32 <<< 8 ||| flagWord o <<< 3 ||| flagWord k <<< 2 ||| flagWord d <<< 1 ||| flagWord b
      w.getLsbD 0 = b ∧ w.getLsbD 1 = d ∧ w.getLsbD 2 = k ∧ w.getLsbD 3 = o ∧ w.extractLsb' 8 4 = e ∧
        w.extractLsb' 4 4 = 0 ∧ w.extractLsb' 12 20 = 0 := by
    decide +kernel
  exact hfields s.busy s.done s.keyValid s.ovr s.err

/-- Settles O48: STATUS is outside the data region, so its read is the same busy or idle. -/
theorem statusReadShowsTheFlags : Obligations.StatusReadShowsTheFlags := by
  intro s
  obtain ⟨hbusy, hdone, hkey, hovr, herr, hlow, hhigh⟩ := statusWord_fields s
  refine ⟨statusWord s, hostAccess_memRead_shown s (by decide) (regAt_status _) (status_shown s),
    hbusy, hdone, hkey, hovr, herr, hlow, hhigh, fun v => ?_⟩
  rw [hostAccess_write_status, hostAccess_write_status, writeStatus_mask]

/-- Settles O49: `b && !c` is the write-1-to-clear of R26. -/
theorem statusWriteClearsDoneAndOvr : Obligations.StatusWriteClearsDoneAndOvr := by
  intro s v
  have hclear : ∀ b c : Bool, (b && !c) = if c = true then false else b := by decide
  rw [hostAccess_write_status, writeStatus, hclear, hclear]
  rfl

/-- Settles O50: a completion sets DONE and keeps IE, an issue and an acknowledgement clear DONE, a CTRL write clears IE. -/
theorem irqFollowsDoneAndEnable : Obligations.IrqFollowsDoneAndEnable := by
  intro s
  refine ⟨by simp [irq], fun i t h => ?_, fun v hb => ?_, fun v h1 => ?_, fun v h0 => ?_⟩
  · have he := effect_of_exec h
    obtain ⟨_, hie, _⟩ := he.frame
    obtain ⟨_, hdone, _⟩ := he.completed
    simp [irq, hie, hdone]
  · rw [hostAccess_memWrite_taken s v (by decide) (regAt_cmd _) (by simp [hb])]
    simp [irq, writeReg]
  · rw [hostAccess_write_status]
    simp only [irq, respond_done, writeStatus_done, h1, Bool.not_true, Bool.and_false]
  · rw [hostAccess_write_ctrl]
    exact ⟨by simp only [irq, respond_ie, writeCtrl_ie, h0, Bool.false_and], rfl⟩

section IdleAccesses

variable {s : State} (hb : s.busy = false)
include hb

/-- An idle engine hides no register (20_memory.md R56). -/
theorem idle_read {off : Nat} {r : Reg} (ho : legalOffset off) (hr : regAt s.cfg.bufSize off = r) :
    hostAccess (memRead s.cfg off) s = respond (.readData (readReg r s)) s :=
  hostAccess_memRead_shown s ho hr (by simp [hb])

/-- An idle engine drops no write (R57). -/
theorem idle_write (v : Word) {off : Nat} {r : Reg} (ho : legalOffset off) (hr : regAt s.cfg.bufSize off = r) :
    hostAccess (memWrite s.cfg off v) s = respond .writeDone (writeReg r v s) :=
  hostAccess_memWrite_taken s v ho hr (by simp [hb])

end IdleAccesses

theorem flagWord_eq_ite (b : Bool) : flagWord b = if b = true then 1 else 0 := by
  cases b <;> decide

/-- Settles O51: an idle engine reads and writes each register as `readReg` and `writeReg` say. -/
theorem idleScalarRegistersReadAndWrite : Obligations.IdleScalarRegistersReadAndWrite := by
  intro s v hb rd wr
  have hlow : v.extractLsb' 0 8 = v.setWidth 8 := (BitVec.setWidth_eq_extractLsb' (by decide)).symm
  refine ⟨⟨idle_read hb (by decide) (regAt_id _), idle_write hb v (by decide) (regAt_id _)⟩, ⟨?_,
    idle_write hb v (by decide) (regAt_ctrl _)⟩, idle_read hb (by decide) (regAt_cmd _),
    ⟨idle_read hb (by decide) (regAt_len _), idle_write hb v (by decide) (regAt_len _)⟩,
    ⟨idle_read hb (by decide) (regAt_gfA _), ?_⟩, ⟨idle_read hb (by decide) (regAt_gfB _), ?_⟩,
    ⟨idle_read hb (by decide) (regAt_gfR _), idle_write hb v (by decide) (regAt_gfR _)⟩, fun i => ?_⟩
  · show hostAccess (memRead s.cfg 0x004) s = _
    rw [← flagWord_eq_ite]
    exact idle_read hb (by decide) (regAt_ctrl _)
  · show hostAccess (memWrite s.cfg 0x014 v) s = _
    rw [← hlow]
    exact idle_write hb v (by decide) (regAt_gfA _)
  · show hostAccess (memWrite s.cfg 0x018 v) s = _
    rw [← hlow]
    exact idle_write hb v (by decide) (regAt_gfB _)
  · have ho : legalOffset (0x100 + 4 * i.val) := ⟨by omega, by omega⟩
    exact ⟨idle_write hb v ho (regAt_rkey _ i), idle_read hb ho (regAt_rkey _ i)⟩

/-- Settles O52: `setBlockWord` sets the four lanes, and `blockWord` reads them back. -/
theorem blockRegisterWritesSetFourBytes : Obligations.BlockRegisterWritesSetFourBytes := by
  intro s n v hb shows lanes reads
  have hkey : legalOffset (0x020 + 4 * n.val) := ⟨by omega, by omega⟩
  have hiv : legalOffset (0x030 + 4 * n.val) := ⟨by omega, by omega⟩
  have hblk : legalOffset (0x040 + 4 * n.val) := ⟨by omega, by omega⟩
  have hset (a : Block) : lanes a (setBlockWord a n v) := setBlockWord_getElem a n v
  have hreads (off : Nat) (r : Reg) (t : State) (ho : legalOffset off) (hr : regAt t.cfg.bufSize off = r)
      (hc : t.cfg = s.cfg) (hi : t.busy = false) (hv : readReg r (respond .writeDone t) = v) : reads off t := by
    have h := idle_read (s := respond .writeDone t) hi ho hr
    rw [hv, respond_cfg, hc] at h
    exact h
  refine ⟨⟨idle_read hb hkey (regAt_key _ n), idle_read hb hiv (regAt_iv _ n), idle_read hb hblk (regAt_blk _ n)⟩,
    ⟨setBlockWord s.key n v, hset _, ?_, idle_write hb v hkey (regAt_key _ n)⟩,
    ⟨setBlockWord s.iv n v, hset _, ?_, idle_write hb v hiv (regAt_iv _ n)⟩,
    ⟨setBlockWord s.blk n v, hset _, ?_, idle_write hb v hblk (regAt_blk _ n)⟩⟩
  · exact hreads _ _ _ hkey (regAt_key _ n) rfl hb (blockWord_setBlockWord s.key n v)
  · exact hreads _ _ _ hiv (regAt_iv _ n) rfl hb (blockWord_setBlockWord s.iv n v)
  · exact hreads _ _ _ hblk (regAt_blk _ n) rfl hb (blockWord_setBlockWord s.blk n v)

/-! ### The BUF window -/

theorem lanes_getElem (v : Word) {l : Nat} (hl : l < 4) :
    [laneOf v 0, laneOf v 1, laneOf v 2, laneOf v 3][l] = laneOf v l := by
  interval_cases l <;> rfl

/-- SetWord on BUF, byte by byte (20_memory.md R53). -/
theorem read_writeWord (m : Memory) {size k : Nat} (v : Word) (h : 4 * k + 4 ≤ size) (j : Nat) :
    (m.writeWord size (4 * k) v).read size j = if j / 4 = k then laneOf v (j % 4) else m.read size j := by
  split
  · rename_i hj
    have hin := read_writeBytes_inside size [laneOf v 0, laneOf v 1, laneOf v 2, laneOf v 3] m (4 * k) (j % 4)
      (Nat.mod_lt _ (by decide)) (by omega)
    rw [show 4 * k + j % 4 = j by omega] at hin
    exact hin.trans (lanes_getElem v _)
  · exact read_writeBytes_outside _ _ _ _ _ (by simp only [List.length_cons, List.length_nil]; omega)

/-- Word after SetWord, on BUF (20_memory.md R54). -/
theorem readWord_writeWord (m : Memory) {size k : Nat} (v : Word) (h : 4 * k + 4 ≤ size) :
    (m.writeWord size (4 * k) v).readWord size (4 * k) = v := by
  have hlane (l : Nat) (hl : l < 4) : (m.writeWord size (4 * k) v).read size (4 * k + l) = laneOf v l := by
    rw [read_writeWord m v h, if_pos (by omega), show (4 * k + l) % 4 = l by omega]
  have h0 := hlane 0 (by decide)
  rw [Nat.add_zero] at h0
  rw [Memory.readWord, h0, hlane 1 (by decide), hlane 2 (by decide), hlane 3 (by decide), packWord_laneOf]

/-- Settles O53: BUF_SIZE is a multiple of 4, so the word lies inside BUF and `writeWord` writes all four bytes. -/
theorem bufferWindowWriteSetsFourBytes : Obligations.BufferWindowWriteSetsFourBytes := by
  intro s k v hc hb hk t
  obtain ⟨_, hmax, hdvd⟩ := hc
  have hsize : 4 * k + 4 ≤ s.cfg.bufSize := by omega
  have ho : legalOffset (0x1000 + 4 * k) := ⟨by omega, by omega⟩
  have hr := regAt_buf hk
  have ht : t = respond .writeDone { s with mem := s.mem.writeWord s.cfg.bufSize (4 * k) v } :=
    idle_write hb v ho hr
  clear_value t
  subst ht
  refine ⟨idle_read hb ho hr, rfl, read_writeWord s.mem v hsize, ?_⟩
  have hread := idle_read (s := respond .writeDone { s with mem := s.mem.writeWord s.cfg.bufSize (4 * k) v }) hb ho hr
  refine (congrArg State.resp hread).trans ?_
  rw [respond_resp]
  exact congrArg (fun w => some (Response.readData w)) (readWord_writeWord s.mem v hsize)

end Sys2Proof.Machine
end

section
/-! PROOFS. The statements on host accesses (20_memory.md). First what every access is, by its address, width and alignment; then the accesses to a busy engine; then why no access disturbs the command in progress. -/

namespace Sys2Proof.Machine

/-! ### Selection, width and alignment -/

/-- The answer to an access that the bus refuses (20_memory.md R52; log 5). -/
def busErrorOf (off : Nat) : Access → Response
  | .read _ _ => .readError off 0
  | .write _ _ _ => .writeError off

theorem inAperture_iff (c : Config) (addr : Nat) :
    inAperture c addr = true ↔ c.engineBase ≤ addr ∧ addr < c.engineBase + 0x10000 := by
  simp [inAperture]

theorem legalAccess_iff (width off : Nat) : legalAccess width off = true ↔ width = 32 ∧ off % 4 = 0 := by
  simp [legalAccess]

/-- An access outside the aperture (R47). -/
theorem hostAccess_outside {a : Access} {s : State} (h : inAperture s.cfg (accessAddr a) = false) :
    hostAccess a s = respond .unselected s := by
  rw [← Bool.not_eq_true] at h
  cases a <;> exact if_neg h

/-- An access of another width, or a misaligned one (R50 to R52). -/
theorem hostAccess_refused {a : Access} {s : State} (h : inAperture s.cfg (accessAddr a) = true)
    (hl : legalAccess (accessWidth a) (accessAddr a - s.cfg.engineBase) = false) :
    hostAccess a s = respond (busErrorOf (accessAddr a - s.cfg.engineBase) a) s := by
  rw [← Bool.not_eq_true] at hl
  cases a <;> exact (if_pos h).trans (if_neg hl)

/-- An access lies outside the aperture, or is refused there, or is a legal read or write at its offset. -/
theorem access_cases (c : Config) (a : Access) :
    inAperture c (accessAddr a) = false ∨
    (inAperture c (accessAddr a) = true ∧ legalAccess (accessWidth a) (accessAddr a - c.engineBase) = false) ∨
    ∃ off, legalOffset off ∧ (a = memRead c off ∨ ∃ v, a = memWrite c off v) := by
  cases ha : inAperture c (accessAddr a) with
  | false => exact .inl rfl
  | true =>
    cases hl : legalAccess (accessWidth a) (accessAddr a - c.engineBase) with
    | false => exact .inr (.inl ⟨rfl, rfl⟩)
    | true =>
      obtain ⟨hlow, hhigh⟩ := (inAperture_iff c _).mp ha
      obtain ⟨hwidth, haligned⟩ := (legalAccess_iff _ _).mp hl
      have haddr : accessAddr a = c.engineBase + (accessAddr a - c.engineBase) := by omega
      refine .inr (.inr ⟨accessAddr a - c.engineBase, ⟨by omega, haligned⟩, ?_⟩)
      cases a with
      | read width addr => exact .inl (congrArg₂ Access.read hwidth haddr)
      | write width addr v => exact .inr ⟨v, congrArg₂ (Access.write · · v) hwidth haddr⟩

/-- Settles O42: the width or the alignment makes the access no legal one. -/
theorem busErrorChangesNoState : Obligations.BusErrorChangesNoState := by
  intro s a ha hbad
  have hl : legalAccess (accessWidth a) (accessAddr a - s.cfg.engineBase) = false := by
    rw [← Bool.not_eq_true, legalAccess_iff]
    tauto
  refine ⟨busErrorOf (accessAddr a - s.cfg.engineBase) a, hostAccess_refused ha hl, ?_, ?_⟩
  · rintro ⟨width, addr, rfl⟩
    rfl
  · rintro ⟨width, addr, v, rfl⟩
    rfl

/-- Settles O43: inside the aperture every access gets an error, data, or a write's answer. -/
theorem onlyTheApertureIsTheEngines : Obligations.OnlyTheApertureIsTheEngines := by
  intro s a inside
  have hin : inAperture s.cfg (accessAddr a) = true ↔ inside := inAperture_iff s.cfg (accessAddr a)
  refine ⟨fun h => ?_, fun h => hostAccess_outside (by rwa [← Bool.not_eq_true, hin])⟩
  rcases access_cases s.cfg a with ho | ⟨ha, hl⟩ | ⟨off, ho, rfl | ⟨v, rfl⟩⟩
  · rw [hin.mpr h] at ho
    cases ho
  · rw [hostAccess_refused ha hl]
    cases a <;> exact fun hr => nomatch hr
  · rw [hostAccess_memRead s ho]
    exact fun hr => nomatch hr
  · rw [hostAccess_memWrite s v ho]
    exact fun hr => nomatch hr

/-- Settles O44: an access that is more than answered is a write. -/
theorem readsHaveNoSideEffect : Obligations.ReadsHaveNoSideEffect := by
  intro s width addr
  rcases hostAccess_cases (.read width addr) s with ⟨r, h⟩ | ⟨_, _, _, hw, _⟩
  · exact ⟨r, h⟩
  · cases hw

/-! ### Accesses to a busy engine -/

section BusyAccesses

variable {s : State} (hb : s.busy = true)
include hb

/-- A busy engine reads as 0 in the data region (R58). -/
theorem busy_read_hidden {off : Nat} (ho : legalOffset off) (hd : inDataRegion (regAt s.cfg.bufSize off) = true) :
    hostAccess (memRead s.cfg off) s = respond (.readData 0) s := by
  rw [hostAccess_memRead s ho, busRead, hb, hd, if_pos (by decide)]

/-- A busy engine drops a write to the data region, with OVR unless the register is read-only (R58). -/
theorem busy_write_hidden {off : Nat} (v : Word) (ho : legalOffset off)
    (hd : inDataRegion (regAt s.cfg.bufSize off) = true) :
    hostAccess (memWrite s.cfg off v) s =
      respond .writeDone (if isReadOnlyData (regAt s.cfg.bufSize off) = true then s else setOvr s) := by
  rw [hostAccess_memWrite s v ho, busWrite, hb, hd, if_pos (by decide)]

end BusyAccesses

/-- The aligned offsets of the data region (R58). -/
theorem inDataRegion_regAt_iff (size : Nat) {off : Nat} (ha : off % 4 = 0) :
    inDataRegion (regAt size off) = true ↔ (0x00C ≤ off ∧ off < 0x050) ∨ (0x100 ≤ off ∧ off < 0x1B0) ∨
      (0x1000 ≤ off ∧ off < 0x1000 + size) := by
  rcases regAt_cases size off with ⟨h, ho⟩ | ⟨h, ho⟩ | ⟨h, ho⟩ | ⟨h, _, ho⟩ | ⟨h, _, ho⟩ | ⟨h, ho⟩
  case inr.inr.inr.inl | inr.inr.inr.inr.inl => exact iff_of_true h (by omega)
  all_goals
    rw [h]
    exact iff_of_false Bool.false_ne_true (by omega)

/-- GF_R and RKEY are the read-only registers of the data region (R58). -/
theorem isReadOnlyData_regAt_iff (size off : Nat) :
    isReadOnlyData (regAt size off) = true ↔ off = 0x01C ∨ (0x100 ≤ off ∧ off < 0x1B0) := by
  rcases regAt_cases size off with ⟨h, ho⟩ | ⟨h, ho⟩ | ⟨h, ho⟩ | ⟨_, h, ho⟩ | ⟨_, h, ho⟩ | ⟨h, ho⟩
  case inr.inr.inr.inr.inl => exact iff_of_true h ho
  all_goals
    rw [h]
    exact iff_of_false Bool.false_ne_true (by omega)

/-- Settles O46: the data region is hidden; ID, CTRL, STATUS and the reserved offsets lie outside it. -/
theorem busyEngineHidesTheDataRegion : Obligations.BusyEngineHidesTheDataRegion := by
  intro s off v hb ho hidden readOnly rd wr
  have hregion : inDataRegion (regAt s.cfg.bufSize off) = true ↔ hidden := inDataRegion_regAt_iff _ ho.2
  have hro : isReadOnlyData (regAt s.cfg.bufSize off) = true ↔ readOnly := isReadOnlyData_regAt_iff _ off
  refine ⟨fun h => busy_read_hidden hb ho (hregion.mpr h), fun ⟨h, hr⟩ => ?_, fun ⟨h, hr⟩ => ?_, ?_, ?_, ?_,
    fun ⟨h, hlow⟩ => ?_⟩
  · have hw := busy_write_hidden hb v ho (hregion.mpr h)
    rwa [if_neg (mt hro.mp hr)] at hw
  · have hw := busy_write_hidden hb v ho (hregion.mpr h)
    rwa [if_pos (hro.mpr hr)] at hw
  · rintro rfl
    exact ⟨hostAccess_memRead_shown s ho (regAt_id _) (Bool.and_false _),
      hostAccess_memWrite_taken s v ho (regAt_id _) (Bool.and_false _)⟩
  · rintro rfl
    refine ⟨?_, hostAccess_write_ctrl s v⟩
    have hr := hostAccess_memRead_shown s ho (regAt_ctrl _) (Bool.and_false _)
    rwa [readReg, flagWord_eq_ite] at hr
  · rintro rfl
    exact ⟨hostAccess_memRead_shown s ho (regAt_status _) (status_shown s), statusWriteClearsDoneAndOvr s v⟩
  · exact reservedOffsetsReadZeroIgnoreWrites s off v ho (by omega)

/-- What a busy engine shows of a register is CTRL.IE or STATUS (R58). -/
theorem busRead_eq_of_busy {s t : State} (hs : s.busy = true) (ht : t.busy = true) (hie : s.ie = t.ie)
    (hst : statusWord s = statusWord t) (r : Reg) : busRead r s = busRead r t := by
  rw [busRead, busRead, hs, ht]
  cases r with
  | ctrl => exact congrArg flagWord hie
  | status => exact hst
  | _ => rfl

/-- Settles O59: only a legal read answers with data, and a busy engine's is a constant, CTRL or STATUS. -/
theorem busyAnswersRevealNoData : Obligations.BusyAnswersRevealNoData := by
  intro s t a hs ht hc hie hdone hkey hovr herr
  have hst : statusWord s = statusWord t := by
    rw [statusWord, statusWord, hs, ht, hdone, hkey, hovr, herr]
  rcases access_cases s.cfg a with ho | ⟨ha, hl⟩ | ⟨off, ho, rfl | ⟨v, rfl⟩⟩
  · rw [hostAccess_outside ho, hostAccess_outside (hc ▸ ho), respond_resp, respond_resp]
  · rw [hostAccess_refused ha hl, hostAccess_refused (hc ▸ ha) (hc ▸ hl), respond_resp, respond_resp, hc]
  · rw [hostAccess_memRead s ho, hc, hostAccess_memRead t ho, busRead_eq_of_busy hs ht hie hst, respond_resp,
      respond_resp]
  · rw [hostAccess_memWrite s v ho, hc, hostAccess_memWrite t v ho, respond_resp, respond_resp]

/-! ### The command in progress -/

/-- `s` with the fields that host accesses can change while the engine is busy, from `h`. -/
def withHostFields (h s : State) : State := { s with ie := h.ie, ovr := h.ovr, done := h.done, resp := h.resp }

@[simp] theorem keyError_withHostFields (h s : State) : keyError (withHostFields h s) = keyError s := rfl
@[simp] theorem cbcError_withHostFields (h s : State) : cbcError (withHostFields h s) = cbcError s := rfl

theorem hostAccess_eq_withHostFields (a : Access) {s : State} (hb : s.busy = true) :
    hostAccess a s = withHostFields (hostAccess a s) s := by
  obtain ⟨ie, ovr, done, resp, h⟩ := hostAccess_busy a hb
  rw [h]
  rfl

/-- However many accesses a busy engine takes, only the host's fields change (R58). -/
theorem hostAccesses_eq_withHostFields (as : List Access) {s : State} (hb : s.busy = true) :
    hostAccesses as s = withHostFields (hostAccesses as s) s := by
  induction as generalizing s with
  | nil => rfl
  | cons a as ih =>
    have ha := hostAccess_eq_withHostFields a hb
    have hb' : (hostAccess a s).busy = true := by rw [ha]; exact hb
    have hrest : hostAccesses as (hostAccess a s) = withHostFields (hostAccesses (a :: as) s) (hostAccess a s) := ih hb'
    calc hostAccesses (a :: as) s
      _ = withHostFields (hostAccesses (a :: as) s) (hostAccess a s) := hrest
      _ = withHostFields (hostAccesses (a :: as) s) (withHostFields (hostAccess a s) s) := by rw [← ha]
      _ = withHostFields (hostAccesses (a :: as) s) s := rfl

/-- Both outcomes are next states, the same but for CTRL.IE, OVR and the answer, which the second has from `h`. -/
def SameButHostFields (h : State) (x y : Host.Outcome State Fault Refusal) : Prop :=
  ∃ t, x = .next t ∧ y = .next { t with ie := h.ie, ovr := h.ovr, resp := h.resp }

/-- Two runs that take the same branch. -/
theorem SameButHostFields.ite {h : State} {c c' : Prop} [Decidable c] [Decidable c'] (hc : c ↔ c')
    {x x' y y' : Host.Outcome State Fault Refusal} (hx : SameButHostFields h x x') (hy : SameButHostFields h y y') :
    SameButHostFields h (if c then x else y) (if c' then x' else y') := by
  by_cases ht : c
  · rwa [if_pos ht, if_pos (hc.mp ht)]
  · rwa [if_neg ht, if_neg (mt hc.mpr ht)]

/-- An error leaves the host's fields as they are, and sets DONE itself. -/
theorem sameButHostFields_raiseError (c : ErrCode) (h s : State) :
    SameButHostFields h (raiseError c s) (raiseError c (withHostFields h s)) :=
  ⟨_, rfl, rfl⟩

/-- No command reads the host's fields, and each sets DONE itself. -/
theorem exec_withHostFields (i : Instr) (h s : State) :
    SameButHostFields h (exec i s) (exec i (withHostFields h s)) := by
  have herr := fun c => sameButHostFields_raiseError c h s
  cases i with
  | encb | decb =>
    simp only [exec, execEncb, execDecb, keyError_withHostFields]
    cases keyError s <;> exact ⟨_, rfl, rfl⟩
  | addrk rnd =>
    simp only [exec, execAddrk, keyError_withHostFields]
    split
    · cases keyError s <;> exact ⟨_, rfl, rfl⟩
    · exact herr _
  | cbcenc =>
    simp only [exec, execCbcenc, cbcError_withHostFields]
    cases cbcError s <;> exact ⟨_, rfl, rfl⟩
  | cbcdec u =>
    simp only [exec, execCbcdec, cbcError_withHostFields]
    cases cbcError s with
    | some c => exact herr c
    | none => cases u <;> exact ⟨_, rfl, rfl⟩
  | pad => exact .ite .rfl (herr _) ⟨_, rfl, rfl⟩
  | unpad => exact .ite .rfl (herr _) (.ite .rfl (herr _) (.ite .rfl (herr _) (.ite .rfl ⟨_, rfl, rfl⟩ (herr _))))
  | _ => exact ⟨_, rfl, rfl⟩

section EngineTurn

variable {s : State} {w : Word} (hb : s.busy = true) (hp : s.pending = some w)
include hb hp

theorem engineTurn_legal {i : Instr} (hd : decode w = .legal i) : engineTurn s = exec i s := by
  simp only [engineTurn, complete, hb, hp, hd, if_true]

theorem engineTurn_illegal {why : IllegalWord} (hd : decode w = .illegal why) :
    engineTurn s = .next (completedWith errIllegalCommand s) := by
  simp only [engineTurn, complete, hb, hp, hd, if_true, raiseError_eq]

/-- The completion step does not read the host's fields. -/
theorem engineTurn_withHostFields (h : State) :
    SameButHostFields h (engineTurn s) (engineTurn (withHostFields h s)) := by
  have hb' : (withHostFields h s).busy = true := hb
  have hp' : (withHostFields h s).pending = some w := hp
  cases hd : decode w with
  | legal i =>
    rw [engineTurn_legal hb hp hd, engineTurn_legal hb' hp' hd]
    exact exec_withHostFields i h s
  | illegal why =>
    rw [engineTurn_illegal hb hp hd, engineTurn_illegal hb' hp' hd]
    exact ⟨_, rfl, rfl⟩

end EngineTurn

/-- Settles O57: the accesses change only what the completion step neither reads nor keeps. -/
theorem outcomeDoesNotDependOnLatency : Obligations.OutcomeDoesNotDependOnLatency := by
  intro s as hb hp
  obtain ⟨w, hw⟩ := Option.isSome_iff_exists.mp hp
  obtain ⟨t, ht, hr⟩ := engineTurn_withHostFields hb hw (hostAccesses as s)
  rw [← hostAccesses_eq_withHostFields as hb] at hr
  exact ⟨t, _, ht, hr, rfl⟩

end Sys2Proof.Machine
end

section
/-! PROOFS. The statements on the encoding (30_encoding.md). First the round trip of Decode and encode; through it the legal words are the words of the well-formed commands, which the two statements after it count out and assemble. -/

namespace Sys2Proof.Machine

/-! ### Decode and encode -/

/-- Decode gives a command back from its word, unless it is ADDRK with RND above 10 (30_encoding.md R73). -/
theorem decode_encode_iff (i : Instr) : decode (encode i) = .legal i ↔ i.wf = true := by
  cases i with
  | cbcdec u => revert u; decide
  | addrk rnd => revert rnd; decide
  | _ => decide

/-- Settles O2: a decoded command encodes to the word it came from, so both directions are about the command's
own word. -/
theorem decodeAndEncodeAgree : Obligations.DecodeAndEncodeAgree := by
  intro w i
  constructor
  · intro h
    have hw := encode_of_decode h
    exact ⟨(decode_encode_iff i).mp (hw ▸ h), hw⟩
  · rintro ⟨hi, rfl⟩
    exact (decode_encode_iff i).mpr hi

/-- The legal words are the words of the well-formed commands. -/
theorem legal_iff_encode {w : Word} : (∃ i, decode w = .legal i) ↔ ∃ i : Instr, i.wf = true ∧ encode i = w :=
  exists_congr (decodeAndEncodeAgree w)

/-! ### The commands with and without an operand -/

theorem addrk_or_mem_plainMnemonics (i : Instr) :
    (∃ rnd, i = .addrk rnd) ∨ i ∈ plainMnemonics.map Prod.snd := by
  cases i with
  | addrk rnd => exact .inl ⟨rnd, rfl⟩
  | cbcdec u => exact .inr (by revert u; decide)
  | _ => exact .inr (by decide)

theorem wf_of_mem_plainMnemonics : ∀ p ∈ plainMnemonics, p.2.wf = true := by decide

theorem toNat_ofNat_round {r : Nat} (hr : r ≤ 10) : (BitVec.ofNat 4 r).toNat = r :=
  Nat.mod_eq_of_lt (show r < 2 ^ 4 by omega)

theorem addrk_ofNat_wf {r : Nat} (hr : r ≤ 10) : (Instr.addrk (BitVec.ofNat 4 r)).wf = true := by
  rwa [Instr.wf, toNat_ofNat_round hr, decide_eq_true_iff]

/-! ### The legal words, counted out -/

theorem toNat_encode_addrk (rnd : BitVec 4) : (encode (.addrk rnd)).toNat = 0x10 + 0x100 * rnd.toNat := by
  revert rnd; decide

/-- A command without operand has the word of its opcode; CBCDEC.U alone has a field set. -/
theorem toNat_encode_of_mem_plainMnemonics :
    ∀ p ∈ plainMnemonics, (encode p.2).toNat ≤ 0x0F ∨ (encode p.2).toNat = 0x1005 := by decide

/-- Each opcode up to 0x0F is that of a command without operand (30_encoding.md R72). -/
theorem exists_plainMnemonics_of_le : ∀ n ≤ 0x0F, ∃ p ∈ plainMnemonics, (encode p.2).toNat = n := by decide

/-- Settles O3: the commands without operand make 17 of the words, ADDRK the other 11. -/
theorem legalWordsAreTheTwentyEight : Obligations.LegalWordsAreTheTwentyEight := by
  intro w
  rw [legal_iff_encode]
  constructor
  · rintro ⟨i, hi, rfl⟩
    rcases addrk_or_mem_plainMnemonics i with ⟨rnd, rfl⟩ | hm
    · exact .inr (.inr ⟨rnd.toNat, of_decide_eq_true hi, toNat_encode_addrk rnd⟩)
    · obtain ⟨p, hp, rfl⟩ := List.mem_map.mp hm
      exact (toNat_encode_of_mem_plainMnemonics p hp).imp_right .inl
  · rintro (hw | hw | ⟨r, hr, hw⟩)
    · obtain ⟨p, hp, he⟩ := exists_plainMnemonics_of_le _ hw
      exact ⟨p.2, wf_of_mem_plainMnemonics p hp, BitVec.eq_of_toNat_eq he⟩
    · exact ⟨.cbcdec true, rfl, BitVec.eq_of_toNat_eq hw.symm⟩
    · have he := toNat_encode_addrk (BitVec.ofNat 4 r)
      rw [toNat_ofNat_round hr, ← hw] at he
      exact ⟨_, addrk_ofNat_wf hr, BitVec.eq_of_toNat_eq he⟩

/-! ### The assembler -/

/-- No two commands share a mnemonic, so the search for one finds its own entry. -/
theorem assemble_of_mem_plainMnemonics : ∀ p ∈ plainMnemonics, assemble p.1 none = some (encode p.2) := by
  decide +kernel

theorem assemble_addrk {r : Nat} (hr : r ≤ 10) :
    assemble "ADDRK" (some r) = some (encode (.addrk (BitVec.ofNat 4 r))) := by
  simp [assemble, hr]

/-- What the assembler makes is the word of a well-formed command (30_encoding.md R78). -/
theorem encode_of_assemble {m : String} {o : Option Nat} {w : Word} (h : assemble m o = some w) :
    ∃ i : Instr, i.wf = true ∧ encode i = w := by
  cases o with
  | none =>
    obtain ⟨p, hp, rfl⟩ := Option.map_eq_some_iff.mp h
    exact ⟨p.2, wf_of_mem_plainMnemonics p (List.mem_of_find?_eq_some hp), rfl⟩
  | some r =>
    obtain ⟨hr, rfl⟩ : (m = "ADDRK" ∧ r ≤ 10) ∧ encode (.addrk (BitVec.ofNat 4 r)) = w := by
      simpa [assemble] using h
    exact ⟨_, addrk_ofNat_wf hr.2, rfl⟩

/-- Every well-formed command has a mnemonic and operand that assemble to its word (R78). -/
theorem exists_assemble_of_wf {i : Instr} (hi : i.wf = true) : ∃ m o, assemble m o = some (encode i) := by
  rcases addrk_or_mem_plainMnemonics i with ⟨rnd, rfl⟩ | hm
  · have ha := assemble_addrk (of_decide_eq_true hi)
    rw [BitVec.ofNat_toNat, BitVec.setWidth_eq] at ha
    exact ⟨_, _, ha⟩
  · obtain ⟨p, hp, rfl⟩ := List.mem_map.mp hm
    exact ⟨p.1, none, assemble_of_mem_plainMnemonics p hp⟩

/-- Settles O4: the assembler makes exactly the words of the well-formed commands, which are the legal ones. -/
theorem assemblerMakesExactlyTheLegalWords : Obligations.AssemblerMakesExactlyTheLegalWords := by
  intro w
  rw [legal_iff_encode]
  constructor
  · rintro ⟨m, o, h⟩
    exact encode_of_assemble h
  · rintro ⟨i, hi, rfl⟩
    exact exists_assemble_of_wf hi

/-! ### Words written out from the fields -/

/-- Settles O1: each of the nine words is fixed, so Decode runs on it. -/
theorem specWordsDecodeAsTheTableSays : Obligations.SpecWordsDecodeAsTheTableSays := by
  unfold Obligations.SpecWordsDecodeAsTheTableSays
  decide

end Sys2Proof.Machine
end

section
/-! PROOFS. The statements on the tables (40_tables.md). The one on SBOX needs that a byte has one inverse only under the multiplication of 41_gf.md. That follows from commutativity and associativity, which need only be checked on the bytes with one bit set, since gmul is additive in each factor. The table is then compared with the inverse. -/

namespace Sys2Proof.Machine

/-! ### Proofs over the bytes with one bit set -/

theorem eq_foldr_xor_twoPow : ∀ x : Byte,
    x = (List.finRange 8).foldr (fun (k : Fin 8) s => (if x.getLsbD k then BitVec.twoPow 8 k else 0) ^^^ s) 0 := by
  decide +kernel

/-- What holds of the bytes with one bit set and is kept by XOR holds of every byte. -/
theorem byte_xor_induction {P : Byte → Prop} (xor : ∀ x y, P x → P y → P (x ^^^ y))
    (bit : ∀ k : Fin 8, P (BitVec.twoPow 8 k)) (x : Byte) : P x := by
  have zero : P 0 := by simpa using xor _ _ (bit 0) (bit 0)
  rw [eq_foldr_xor_twoPow x]
  refine List.foldrRecOn _ _ zero fun s hs k _ => xor _ _ ?_ hs
  split
  · exact bit k
  · exact zero

/-! ### gmul is additive in each factor -/

theorem ite_xor_eq_xor_ite (b : Bool) (p a : Byte) : (if b then p ^^^ a else p) = p ^^^ (if b then a else 0) := by
  cases b <;> simp

theorem ite_bxor (b b' : Bool) (a : Byte) :
    (if b ^^ b' then a else 0) = (if b then a else 0) ^^^ (if b' then a else 0) := by
  cases b <;> cases b' <;> simp

theorem xtime_xor (a b : Byte) : xtime (a ^^^ b) = xtime a ^^^ xtime b := by
  simp only [xtime, ite_xor_eq_xor_ite, ite_bxor, BitVec.getLsbD_xor, BitVec.shiftLeft_xor_distrib]
  ac_rfl

theorem gmulLoop_xor_left (n k : Nat) (a a' b p p' : Byte) :
    gmulLoop n k (a ^^^ a') b (p ^^^ p') = gmulLoop n k a b p ^^^ gmulLoop n k a' b p' := by
  induction n generalizing k a a' p p' with
  | zero => rfl
  | succ n ih =>
    rw [gmulLoop, gmulLoop, gmulLoop, xtime_xor, ← ih]
    congr 1
    split
    · ac_rfl
    · rfl

theorem gmulLoop_xor_right (n k : Nat) (a b b' p p' : Byte) :
    gmulLoop n k a (b ^^^ b') (p ^^^ p') = gmulLoop n k a b p ^^^ gmulLoop n k a b' p' := by
  induction n generalizing k a p p' with
  | zero => rfl
  | succ n ih =>
    rw [gmulLoop, gmulLoop, gmulLoop, ← ih]
    congr 1
    simp only [ite_xor_eq_xor_ite, ite_bxor, BitVec.getLsbD_xor]
    ac_rfl

theorem gmul_xor_left (a a' b : Byte) : gmul (a ^^^ a') b = gmul a b ^^^ gmul a' b :=
  gmulLoop_xor_left 8 0 a a' b 0 0

theorem gmul_xor_right (a b b' : Byte) : gmul a (b ^^^ b') = gmul a b ^^^ gmul a b' :=
  gmulLoop_xor_right 8 0 a b b' 0 0

/-! ### gmul is commutative and associative -/

theorem gmul_comm (a b : Byte) : gmul a b = gmul b a := by
  induction a using byte_xor_induction with
  | xor x y hx hy => rw [gmul_xor_left, gmul_xor_right, hx, hy]
  | bit j =>
    induction b using byte_xor_induction with
    | xor x y hx hy => rw [gmul_xor_left, gmul_xor_right, hx, hy]
    | bit k => revert j k; decide +kernel

theorem gmul_assoc (a b c : Byte) : gmul (gmul a b) c = gmul a (gmul b c) := by
  induction a using byte_xor_induction with
  | xor x y hx hy => simp only [gmul_xor_left, hx, hy]
  | bit i =>
    induction b using byte_xor_induction with
    | xor x y hx hy => simp only [gmul_xor_left, gmul_xor_right, hx, hy]
    | bit j =>
      induction c using byte_xor_induction with
      | xor x y hx hy => simp only [gmul_xor_right, hx, hy]
      | bit k => revert i j k; decide +kernel

@[simp] theorem gmul_zero_left (a : Byte) : gmul 0#8 a = 0#8 := by
  simpa using gmul_xor_left 0 0 a

/-- A byte has at most one inverse (R91). -/
theorem gmul_inverse_unique {a y z : Byte} (hy : gmul a y = 1) (hz : gmul a z = 1) : y = z :=
  calc y = gmul (gmul a z) y := by rw [hz]; exact (gmul_one_left y).symm
    _ = gmul (gmul a y) z := by rw [gmul_assoc, gmul_comm z, gmul_assoc]
    _ = z := by rw [hy]; exact gmul_one_left z

/-! ### SBOX and the inverse -/

/-- The affine map of the S-box (40_tables.md R83). -/
def sboxAffine (y : Byte) : Byte :=
  y ^^^ y.rotateLeft 1 ^^^ y.rotateLeft 2 ^^^ y.rotateLeft 3 ^^^ y.rotateLeft 4 ^^^ 0x63

/-- The affine map undone. -/
def sboxAffineInv (z : Byte) : Byte := z.rotateLeft 1 ^^^ z.rotateLeft 3 ^^^ z.rotateLeft 6 ^^^ 0x05

theorem sboxAffine_sboxAffineInv : ∀ z : Byte, sboxAffine (sboxAffineInv z) = z := by decide +kernel

/-- SBOX[x] with the affine map undone is an inverse of x: the entries of the table (R82) against R83. -/
theorem gmul_sboxAffineInv_sbox : ∀ x : Byte, x ≠ 0 → gmul x (sboxAffineInv (sbox x)) = 1 := by decide +kernel

theorem sboxAffineInv_sbox_zero : sboxAffineInv (sbox 0) = 0 := by decide +kernel

/-- The inverse of R83, 0 for 0, is what SBOX gives with the affine map undone. -/
theorem sboxAffineInv_sbox_eq {x y : Byte} (h : x = 0 ∧ y = 0 ∨ gmul x y = 1) : sboxAffineInv (sbox x) = y := by
  rcases h with ⟨rfl, rfl⟩ | h
  · exact sboxAffineInv_sbox_zero
  · have hx : x ≠ 0 := by
      rintro rfl
      simp at h
    exact gmul_inverse_unique (gmul_sboxAffineInv_sbox x hx) h

theorem sbox_ne_self : ∀ x : Byte, sbox x ≠ x := by decide +kernel

/-- Settles O23: the table with the affine map undone is the inverse, so the map of the inverse is the table. -/
theorem sboxIsAffineOfFieldInverse : Obligations.SboxIsAffineOfFieldInverse := by
  refine ⟨fun x y h => ?_, sbox_ne_self⟩
  rw [← sboxAffineInv_sbox_eq h]
  exact (sboxAffine_sboxAffineInv (sbox x)).symm

/-! ### SBOX and INV_SBOX -/

@[simp] theorem invSbox_sbox : ∀ x : Byte, invSbox (sbox x) = x := by decide +kernel

@[simp] theorem sbox_invSbox : ∀ x : Byte, sbox (invSbox x) = x := by decide +kernel

/-- Settles O22: the two tables are compared entry by entry. -/
theorem sboxAndInverseCancel : Obligations.SboxAndInverseCancel :=
  fun x => ⟨invSbox_sbox x, sbox_invSbox x⟩

/-! ### RCON -/

theorem rcon_succ {r : Nat} (hr : 1 ≤ r) : rcon (r + 1) = xtime (rcon r) := by
  cases r with
  | zero => cases hr
  | succ r => rfl

/-- Settles O24: the recurrence is RCON's definition, and the ten entries are closed terms. -/
theorem rconIsTheTable : Obligations.RconIsTheTable :=
  ⟨rfl, fun _ hr _ => rcon_succ hr, by decide⟩

end Sys2Proof.Machine
end

section
/-! PROOFS. The statements on the multiplication of GF(2^8) and its two commands (41_gf.md). First when a command's own word is its only one; then what the loop of gmul computes, as a sum of doublings and as a function of the bits of the multiplier. -/

namespace Sys2Proof.Machine

/-! ### The one word of a command without operand -/

/-- The opcode map reads a command back from the fields of its word (30_encoding.md R72). -/
theorem instrOfOp_encode (i : Instr) :
    instrOfOp (opField (encode i)) (rndField (encode i)) (uField (encode i)) = some i := by
  cases i with
  | cbcdec u => revert u; decide
  | addrk rnd => revert rnd; decide
  | _ => rfl

/-- Of the words with an OP that means one command whatever RND and U are, only the command's own is legal (R74). -/
theorem onlyWordIs_encode {i : Instr} (hi : i.wf = true)
    (hop : ∀ rnd u, instrOfOp (opField (encode i)) rnd u = some i) : onlyWordIs (encode i) i := by
  refine ⟨(decode_encode_iff i).mpr hi, fun v hv hne => ?_⟩
  cases hd : decode v with
  | illegal why => exact ⟨why, rfl⟩
  | legal j =>
    obtain rfl : encode j = v := encode_of_decode hd
    have hij : some j = some i := by
      rw [← instrOfOp_encode j, show opField (encode j) = opField (encode i) from hv, hop]
    exact absurd (congrArg encode (Option.some.inj hij)) hne

/-- Settles O19: the model's XTIME is R89 and R92 as written. -/
theorem xtimeDoublesGfA : Obligations.XtimeDoublesGfA :=
  ⟨onlyWordIs_encode (i := .xtime) rfl fun _ _ => rfl, fun s => retire_eq (setGfR (xtime s.gfA) s)⟩

/-! ### The loop of gmul -/

/-- n turns of the loop add to p the doublings of a that the n bits of b from bit k up select (41_gf.md R90). -/
theorem gmulLoop_eq_xor_sum (n k : Nat) (a b p : Byte) :
    gmulLoop n k a b p = p ^^^ ((List.range n).map fun j =>
      if b.getLsbD (k + j) = true then xtime^[j] a else 0).foldr (fun x y => x ^^^ y) 0 := by
  induction n generalizing k a p with
  | zero => simp [gmulLoop]
  | succ n ih =>
    rw [gmulLoop, ih, List.range_succ_eq_map, ite_xor_eq_xor_ite, BitVec.xor_assoc, List.map_cons, List.foldr_cons,
      List.map_map]
    simp only [Function.comp_def, Nat.succ_eq_add_one, Nat.add_zero, Nat.add_right_comm k 1, ← Nat.add_assoc,
      Function.iterate_zero_apply, Function.iterate_succ_apply]

theorem gmul_eq_xor_sum (a b : Byte) :
    gmul a b = ((List.range 8).map fun j => if b.getLsbD j = true then xtime^[j] a else 0).foldr
      (fun x y => x ^^^ y) 0 := by
  rw [gmul, gmulLoop_eq_xor_sum, show (0 : Byte) = 0#8 from rfl, BitVec.zero_xor]
  simp only [Nat.zero_add]

/-- The loop over m + n bits is the loop over the lower m, then over the n above them. -/
theorem gmulLoop_add (m n k : Nat) (a b p : Byte) :
    gmulLoop (m + n) k a b p = gmulLoop n (k + m) (xtime^[m] a) b (gmulLoop m k a b p) := by
  induction m generalizing k a p with
  | zero => simp [gmulLoop]
  | succ m ih =>
    rw [Nat.succ_add, gmulLoop, ih, gmulLoop, Function.iterate_succ_apply, Nat.add_right_comm, Nat.add_assoc]

/-- Turns of the loop on bits that are 0 add nothing. -/
theorem gmulLoop_of_bits_zero {b : Byte} {k : Nat} (hb : ∀ j, k ≤ j → b.getLsbD j = false) (n : Nat) (a p : Byte) :
    gmulLoop n k a b p = p := by
  induction n generalizing k a with
  | zero => rfl
  | succ n ih => simp [gmulLoop, hb k, ih fun j hj => hb j (Nat.le_of_succ_le hj)]

/-- The loop over 5 bits gives the product when the multiplier has no bits above them (R91). -/
theorem gmulLoop_five_eq_gmul {b : Byte} (hb : b.toNat < 32) (a : Byte) : gmulLoop 5 0 a b 0 = gmul a b := by
  have hbits (j : Nat) (hj : 5 ≤ j) : b.getLsbD j = false :=
    Nat.testBit_lt_two_pow (hb.trans_le (Nat.pow_le_pow_right (by omega) hj : 2 ^ 5 ≤ 2 ^ j))
  calc gmulLoop 5 0 a b 0
      = gmulLoop 3 5 (xtime^[5] a) b (gmulLoop 5 0 a b 0) := (gmulLoop_of_bits_zero hbits 3 _ _).symm
    _ = gmul a b := (gmulLoop_add 5 3 0 a b 0).symm

/-- Settles O20: gmul is its loop over all 8 bits, which is the sum of the statement. -/
theorem gmulMultipliesGfAByGfB : Obligations.GmulMultipliesGfAByGfB := by
  refine ⟨onlyWordIs_encode (i := .gmul) rfl fun _ _ => rfl, fun s => ?_⟩
  have hexec : exec .gmul s = .next (completedWith 0 (setGfR (gmul s.gfA s.gfB) s)) := retire_eq _
  rwa [gmul_eq_xor_sum] at hexec

/-! ### The field -/

theorem gmul_one_right (a : Byte) : gmul a 1 = a := (gmul_comm a 1).trans (gmul_one_left a)

theorem gmul_zero_right (a : Byte) : gmul a 0 = 0 := (gmul_comm a 0).trans (gmul_zero_left a)

/-- SBOX with its affine map undone gives the inverse (40_tables.md R83). -/
theorem existsUnique_gmul_eq_one {a : Byte} (ha : a ≠ 0) : ∃! y : Byte, gmul a y = 1 :=
  have hinv := gmul_sboxAffineInv_sbox a ha
  ⟨sboxAffineInv (sbox a), hinv, fun _ hy => gmul_inverse_unique hy hinv⟩

/-- Settles O21: one law of the field for each clause, and the loop over 5 bits. -/
theorem gmulIsFieldMultiplication : Obligations.GmulIsFieldMultiplication :=
  ⟨gmul_comm, gmul_assoc, gmul_xor_right, fun a => ⟨gmul_one_right a, gmul_zero_right a⟩,
    fun _ => existsUnique_gmul_eq_one, fun a _ hb => gmulLoop_five_eq_gmul hb a⟩

end Sys2Proof.Machine
end

section
/-! PROOFS. The statements on the round transforms and their commands (42_round.md). First what byte r, c of each transform is; then the columns, where both matrices are read as rows of coefficients: a product with one matrix, then the other, is the product with their product, which is the unit matrix. -/

namespace Sys2Proof.Machine

/-! ### Blocks by row and column -/

theorem getElem_eq_stateByte (a : Block) {i r c : Nat} (hr : r < 4) (hc : c < 4) (hi : i = r + 4 * c) :
    a[i]'(by omega) = stateByte a r c := by
  subst hi
  simp only [stateByte, Nat.mod_eq_of_lt hr, Nat.mod_eq_of_lt hc]

/-- Two blocks are equal when they agree in every row and column (42_round.md R94). -/
theorem block_eq_of_stateByte {a b : Block} (h : ∀ r c, r < 4 → c < 4 → stateByte a r c = stateByte b r c) :
    a = b := by
  refine Vector.ext fun i hi => ?_
  have hr : i % 4 < 4 := by omega
  have hc : i / 4 < 4 := by omega
  have hrc : i = i % 4 + 4 * (i / 4) := by omega
  rw [getElem_eq_stateByte a hr hc hrc, getElem_eq_stateByte b hr hc hrc, h _ _ hr hc]

theorem stateByte_congr (a : Block) (r : Nat) {c d : Nat} (h : c % 4 = d % 4) : stateByte a r c = stateByte a r d := by
  simp only [stateByte, h]

theorem stateByte_ofStateBytes (f : Nat → Nat → Byte) (r c : Nat) :
    stateByte (ofStateBytes f) r c = f (r % 4) (c % 4) := by
  have hrow : (r % 4 + 4 * (c % 4)) % 4 = r % 4 := by omega
  have hcol : (r % 4 + 4 * (c % 4)) / 4 = c % 4 := by omega
  simp only [stateByte, ofStateBytes, Vector.getElem_ofFn, hrow, hcol]

/-! ### AddRoundKey, SubBytes, InvSubBytes -/

@[simp] theorem addRoundKey_getElem (s : Block) (rk : Schedule) (rnd : RoundIndex) {i : Nat} (hi : i < 16) :
    (addRoundKey s rk rnd)[i] = s[i] ^^^ rk[16 * rnd.val + i] := by
  simp [addRoundKey]

theorem subBytes_eq_map (s : Block) : subBytes s = s.map sbox := Vector.ext fun i hi => by simp [subBytes]

theorem invSubBytes_eq_map (s : Block) : invSubBytes s = s.map invSbox := Vector.ext fun i hi => by simp [invSubBytes]

theorem addRoundKey_addRoundKey (s : Block) (rk : Schedule) (rnd : RoundIndex) :
    addRoundKey (addRoundKey s rk rnd) rk rnd = s := Vector.ext fun i hi => by
  rw [addRoundKey_getElem, addRoundKey_getElem, BitVec.xor_assoc, BitVec.xor_self, BitVec.xor_zero]

theorem invSubBytes_subBytes (s : Block) : invSubBytes (subBytes s) = s := Vector.ext fun i hi => by
  simp [subBytes_eq_map, invSubBytes_eq_map]

theorem subBytes_invSubBytes (s : Block) : subBytes (invSubBytes s) = s := Vector.ext fun i hi => by
  simp [subBytes_eq_map, invSubBytes_eq_map]

/-! ### ShiftRows, InvShiftRows -/

theorem stateByte_shiftRows (s : Block) {r c : Nat} (hr : r < 4) :
    stateByte (shiftRows s) r c = stateByte s r (c + r) := by
  rw [shiftRows, stateByte_ofStateBytes, Nat.mod_eq_of_lt hr]
  exact stateByte_congr s r (by omega)

theorem stateByte_invShiftRows (s : Block) {r c : Nat} (hr : r < 4) :
    stateByte (invShiftRows s) r c = stateByte s r (c + 4 - r) := by
  rw [invShiftRows, stateByte_ofStateBytes, Nat.mod_eq_of_lt hr]
  exact stateByte_congr s r (by omega)

theorem invShiftRows_shiftRows (s : Block) : invShiftRows (shiftRows s) = s :=
  block_eq_of_stateByte fun r c hr _ => by
    rw [stateByte_invShiftRows _ hr, stateByte_shiftRows _ hr]
    exact stateByte_congr s r (by omega)

theorem shiftRows_invShiftRows (s : Block) : shiftRows (invShiftRows s) = s :=
  block_eq_of_stateByte fun r c hr _ => by
    rw [stateByte_shiftRows _ hr, stateByte_invShiftRows _ hr]
    exact stateByte_congr s r (by omega)

/-! ### Columns as products with a matrix -/

/-- A row of coefficients times a column, over GF(2^8). -/
def rowDot (k a : Fin 4 → Byte) : Byte := gmul (k 0) (a 0) ^^^ gmul (k 1) (a 1) ^^^ gmul (k 2) (a 2) ^^^ gmul (k 3) (a 3)

/-- A matrix given by one word a row, whose byte lanes are the coefficients. -/
def matrixOf (rows : Vector Word 4) (r j : Fin 4) : Byte := laneOf rows[r] j

/-- The matrix of MixColumns (R100). -/
def mixMatrix : Fin 4 → Fin 4 → Byte := matrixOf #v[0x02030101, 0x01020301, 0x01010203, 0x03010102]

/-- The matrix of InvMixColumns (R101). -/
def invMixMatrix : Fin 4 → Fin 4 → Byte := matrixOf #v[0x0e0b0d09, 0x090e0b0d, 0x0d090e0b, 0x0b0d090e]

/-- The column map `f` is the product with the matrix `m`. -/
def MultipliesBy (f : Nat → Byte → Byte → Byte → Byte → Byte) (m : Fin 4 → Fin 4 → Byte) : Prop :=
  ∀ (r : Fin 4) (a : Fin 4 → Byte), f r (a 0) (a 1) (a 2) (a 3) = rowDot (m r) a

theorem mixColumn_multipliesBy : MultipliesBy mixColumn mixMatrix := by
  intro r a
  match r with
  | 0 | 1 | 2 | 3 => simp [mixColumn, rowDot, mixMatrix, matrixOf, laneOf, gmul_one_left]

theorem invMixColumn_multipliesBy : MultipliesBy invMixColumn invMixMatrix := by
  intro r a
  match r with
  | 0 | 1 | 2 | 3 => rfl

/-- The product with a matrix n, then with a row k, is the product with the row k·n. -/
theorem rowDot_rowDot (k a : Fin 4 → Byte) (n : Fin 4 → Fin 4 → Byte) :
    rowDot k (fun i => rowDot (n i) a) = rowDot (fun j => rowDot k fun i => n i j) a := by
  simp only [rowDot, gmul_xor_left, gmul_xor_right, gmul_assoc]
  ac_rfl

theorem rowDot_unit (r : Fin 4) (a : Fin 4 → Byte) : rowDot (fun j => if j = r then 1 else 0) a = a r := by
  match r with
  | 0 | 1 | 2 | 3 => simp [rowDot, gmul_one_left]

theorem invMixMatrix_mul_mixMatrix : ∀ r j : Fin 4,
    rowDot (invMixMatrix r) (fun i => mixMatrix i j) = if j = r then 1 else 0 := by decide

theorem mixMatrix_mul_invMixMatrix : ∀ r j : Fin 4,
    rowDot (mixMatrix r) (fun i => invMixMatrix i j) = if j = r then 1 else 0 := by decide

section Columns

variable {f g : Nat → Byte → Byte → Byte → Byte → Byte} {m n : Fin 4 → Fin 4 → Byte}

theorem stateByte_mapColumns (hf : MultipliesBy f m) (s : Block) (r c : Fin 4) :
    stateByte (mapColumns f s) r c = rowDot (m r) fun j => stateByte s j c := by
  rw [mapColumns, stateByte_ofStateBytes, Nat.mod_eq_of_lt r.isLt, Nat.mod_eq_of_lt c.isLt]
  exact hf r fun j => stateByte s j c

/-- Products with inverse matrices cancel. -/
theorem mapColumns_mapColumns (hf : MultipliesBy f m) (hg : MultipliesBy g n)
    (hmn : ∀ r j, rowDot (m r) (fun i => n i j) = if j = r then 1 else 0) (s : Block) :
    mapColumns f (mapColumns g s) = s :=
  block_eq_of_stateByte fun r c hr hc =>
    calc stateByte (mapColumns f (mapColumns g s)) r c
        = rowDot (m ⟨r, hr⟩) (fun i => stateByte (mapColumns g s) i c) := stateByte_mapColumns hf _ ⟨r, hr⟩ ⟨c, hc⟩
      _ = rowDot (m ⟨r, hr⟩) (fun i => rowDot (n i) fun j => stateByte s j c) :=
        congrArg (rowDot _) (funext fun i => stateByte_mapColumns hg s i ⟨c, hc⟩)
      _ = rowDot (fun j => if j = ⟨r, hr⟩ then 1 else 0) (fun j => stateByte s j c) := by
        rw [rowDot_rowDot, funext (hmn ⟨r, hr⟩)]
      _ = stateByte s r c := rowDot_unit _ _

end Columns

theorem invMixColumns_mixColumns (s : Block) : invMixColumns (mixColumns s) = s :=
  mapColumns_mapColumns invMixColumn_multipliesBy mixColumn_multipliesBy invMixMatrix_mul_mixMatrix s

theorem mixColumns_invMixColumns (s : Block) : mixColumns (invMixColumns s) = s :=
  mapColumns_mapColumns mixColumn_multipliesBy invMixColumn_multipliesBy mixMatrix_mul_invMixMatrix s

/-- Settles O29: each pair of transforms cancels by its own law, in rows, in columns or byte by byte. -/
theorem roundTransformsAreInvertible : Obligations.RoundTransformsAreInvertible :=
  ⟨addRoundKey_addRoundKey, fun s => ⟨invSubBytes_subBytes s, subBytes_invSubBytes s⟩,
    fun s => ⟨invShiftRows_shiftRows s, shiftRows_invShiftRows s⟩,
    fun s => ⟨invMixColumns_mixColumns s, mixColumns_invMixColumns s⟩⟩

/-! ### The commands without operand -/

/-- Settles O25: SubBytes and InvSubBytes are maps over the bytes, and the commands write them to BLK. -/
theorem substitutionCommandsMapEveryByte : Obligations.SubstitutionCommandsMapEveryByte := by
  refine ⟨onlyWordIs_encode (i := .subb) rfl fun _ _ => rfl, onlyWordIs_encode (i := .invsubb) rfl fun _ _ => rfl,
    fun s => ?_⟩
  rw [← subBytes_eq_map, ← invSubBytes_eq_map]
  exact ⟨retire_eq _, retire_eq _⟩

/-- The order of bytes that ShiftRows makes, written out (R98). -/
theorem shiftRows_eq (a : Block) : shiftRows a =
    #v[a[0], a[5], a[10], a[15], a[4], a[9], a[14], a[3], a[8], a[13], a[2], a[7], a[12], a[1], a[6], a[11]] := rfl

/-- The order of bytes that InvShiftRows makes, written out (R99). -/
theorem invShiftRows_eq (a : Block) : invShiftRows a =
    #v[a[0], a[13], a[10], a[7], a[4], a[1], a[14], a[11], a[8], a[5], a[2], a[15], a[12], a[9], a[6], a[3]] := rfl

/-- Settles O26: the commands write ShiftRows and InvShiftRows of BLK, whose orders are those listed. -/
theorem shiftCommandsPermuteBytes : Obligations.ShiftCommandsPermuteBytes := by
  refine ⟨onlyWordIs_encode (i := .shrow) rfl fun _ _ => rfl, onlyWordIs_encode (i := .invshrow) rfl fun _ _ => rfl,
    fun s => ?_⟩
  rw [← shiftRows_eq, ← invShiftRows_eq]
  exact ⟨retire_eq _, retire_eq _⟩

/-- A byte of a new column, with the bytes of the old one given by their index in the block. -/
theorem mapColumns_getElem {f : Nat → Byte → Byte → Byte → Byte → Byte} {rows : Vector Word 4}
    (hf : MultipliesBy f (matrixOf rows)) (a : Block) (r c : Fin 4) :
    (mapColumns f a)[r.val + 4 * c.val] = gmul (laneOf rows[r] 0) a[4 * c.val] ^^^
      gmul (laneOf rows[r] 1) a[4 * c.val + 1] ^^^ gmul (laneOf rows[r] 2) a[4 * c.val + 2] ^^^
      gmul (laneOf rows[r] 3) a[4 * c.val + 3] := by
  have hcol (j : Nat) (hj : j < 4) : a[4 * c.val + j] = stateByte a j c :=
    getElem_eq_stateByte a hj c.isLt (Nat.add_comm _ _)
  have hcol0 : a[4 * c.val] = stateByte a 0 c := hcol 0 (by decide)
  rw [getElem_eq_stateByte _ r.isLt c.isLt rfl, stateByte_mapColumns hf, hcol0, hcol 1 (by decide),
    hcol 2 (by decide), hcol 3 (by decide)]
  rfl

/-- Settles O27: MixColumns and InvMixColumns are the products with the two matrices. -/
theorem columnCommandsMultiplyByTheMatrices : Obligations.ColumnCommandsMultiplyByTheMatrices :=
  ⟨onlyWordIs_encode (i := .mixcol) rfl fun _ _ => rfl, onlyWordIs_encode (i := .invmixcol) rfl fun _ _ => rfl,
    fun s => ⟨mixColumns s.blk, invMixColumns s.blk, retire_eq _, retire_eq _, fun r c =>
      ⟨mapColumns_getElem mixColumn_multipliesBy s.blk r c, mapColumns_getElem invMixColumn_multipliesBy s.blk r c⟩⟩⟩

/-! ### ADDRK -/

theorem encode_addrk (r : BitVec 4) : encode (.addrk r) = 0x10 ||| (r.setWidth 32 <<< 8) := by
  revert r; decide

/-- A legal word with the OP of ADDRK is the word of a round index (30_encoding.md R73). -/
theorem toNat_of_legal_addrkOp {w : Word} {i : Instr} (hop : opField w = 0x10) (hd : decode w = .legal i) :
    ∃ r ≤ 10, w.toNat = 0x10 + 0x100 * r := by
  obtain ⟨hwf, rfl⟩ := (decodeAndEncodeAgree w i).mp hd
  have hi : i = .addrk (rndField (encode i)) :=
    Option.some.inj ((instrOfOp_encode i).symm.trans (by rw [hop]; rfl))
  rw [hi] at hwf ⊢
  exact ⟨_, of_decide_eq_true hwf, toNat_encode_addrk _⟩

theorem exec_addrk (s : State) {r : BitVec 4} (hr : r.toNat ≤ 10) (hk : s.keyValid = true) :
    exec (.addrk r) s = .next (completedWith 0 (setBlk (addRoundKey s.blk s.rk ⟨r.toNat, by omega⟩) s)) := by
  rw [exec, execAddrk, dif_pos hr, keyError_valid hk]
  rfl

theorem exec_addrk_noKey (s : State) {r : BitVec 4} (hr : r.toNat ≤ 10) (hk : s.keyValid = false) :
    exec (.addrk r) s = .next (completedWith 5 s) := by
  rw [exec, execAddrk, dif_pos hr, keyError_invalid hk]
  rfl

/-- Settles O28: the words are those of the encoding, and the check of KEY_VALID decides between the two outcomes. -/
theorem addrkAddsARoundKey : Obligations.AddrkAddsARoundKey := by
  refine ⟨fun r hr => ?_, fun w hop hw => ?_, fun s r hr => ⟨fun hk => ?_, exec_addrk_noKey s hr⟩⟩
  · rw [← encode_addrk]
    exact (decode_encode_iff _).mpr (decide_eq_true hr)
  · cases hd : decode w with
    | illegal why => exact ⟨why, rfl⟩
    | legal i =>
      obtain ⟨r, hr, he⟩ := toNat_of_legal_addrkOp hop hd
      exact absurd he (hw r hr)
  · exact ⟨_, exec_addrk s hr hk, fun i => addRoundKey_getElem s.blk s.rk _ i.isLt⟩

end Sys2Proof.Machine
end

section
/-! PROOFS. The statements on the key schedule and KEYEXP (43_keysched.md). The expander passes on the four words before the next one; in the list of words that is the recurrence over i-4 and i-1, and the schedule is that list byte by byte. -/

namespace Sys2Proof.Machine

/-! ### One step of the recurrence, byte by byte -/

theorem scheduleCore_getElem (r : Nat) (t : Quad) (j : Fin 4) :
    (scheduleCore r t)[j] = sbox (t[(j.val + 1) % 4]'(by omega)) ^^^ (if j.val = 0 then rcon r else 0) := by
  match j with
  | 0 => rfl
  | 1 | 2 | 3 => exact (BitVec.xor_zero ..).symm

theorem nextQuad_getElem (i : Nat) (w4 w1 : Quad) (j : Fin 4) :
    (nextQuad i w4 w1)[j] = w4[j] ^^^
      (if i % 4 = 0 then sbox (w1[(j.val + 1) % 4]'(by omega)) ^^^ (if j.val = 0 then rcon (i / 4) else 0)
      else w1[j]) := by
  have hxor : (nextQuad i w4 w1)[j] = w4[j] ^^^ (if i % 4 = 0 then scheduleCore (i / 4) w1 else w1)[j] := by
    simp [nextQuad, xorQuad]
  rw [hxor, ← scheduleCore_getElem]
  split <;> rfl

/-! ### The words of the expander -/

/-- Every word the expander makes is the step from the words four and one before it. -/
theorem expandQuads_getD (z : Quad) {n k : Nat} (hk : k < n) (i : Nat) (a b c d : Quad) :
    (a :: b :: c :: d :: expandQuads n i a b c d).getD (k + 4) z =
      nextQuad (i + k) ((a :: b :: c :: d :: expandQuads n i a b c d).getD k z)
        ((a :: b :: c :: d :: expandQuads n i a b c d).getD (k + 3) z) := by
  induction n generalizing k i a b c d with
  | zero => omega
  | succ n ih =>
    cases k with
    | zero => rfl
    | succ k =>
      have hnext := ih (Nat.lt_of_succ_lt_succ hk) (i + 1) b c d (nextQuad i a d)
      rwa [Nat.add_right_comm, Nat.add_assoc] at hnext

/-- Word i of the schedule (R111). -/
def scheduleQuad (key : Block) (i : Nat) : Quad := (scheduleQuads key).getD i (Vector.replicate 4 0)

theorem scheduleQuad_of_lt (key : Block) (i : Fin 4) : scheduleQuad key i = keyQuad key i := by
  match i with
  | 0 | 1 | 2 | 3 => rfl

theorem scheduleQuad_eq_nextQuad (key : Block) {i : Nat} (h4 : 4 ≤ i) (h44 : i < 44) :
    scheduleQuad key i = nextQuad i (scheduleQuad key (i - 4)) (scheduleQuad key (i - 1)) := by
  obtain ⟨k, rfl⟩ := Nat.exists_eq_add_of_le' h4
  have hk : k < 40 := by omega
  have hstep := expandQuads_getD (Vector.replicate 4 0) hk 4 (keyQuad key 0) (keyQuad key 1) (keyQuad key 2)
    (keyQuad key 3)
  rwa [Nat.add_comm 4 k] at hstep

/-! ### The bytes of the schedule -/

theorem keyExpansion_getElem (key : Block) {i j : Nat} (hi : i < 44) (hj : j < 4) :
    (keyExpansion key)[4 * i + j] = (scheduleQuad key i)[j] := by
  have hdiv : (4 * i + j) / 4 = i := by omega
  have hmod : (4 * i + j) % 4 = j := by omega
  simp only [keyExpansion, Vector.getElem_ofFn, hdiv, hmod, scheduleQuad]

theorem keyExpansion_getElem_key (key : Block) (k : Fin 16) : (keyExpansion key)[k.val] = key[k] := by
  have hk : 4 * (k.val / 4) + k.val % 4 = k.val := by omega
  have hword := keyExpansion_getElem key (i := k / 4) (j := k % 4) (by omega) (by omega)
  have hkey := scheduleQuad_of_lt key ⟨k / 4, by omega⟩
  simpa [hkey, keyQuad, hk] using hword

/-- Settles O30: the first four words are the key, and each later word is the step from its two predecessors. -/
theorem keyExpansionIsTheRecurrence : Obligations.KeyExpansionIsTheRecurrence := by
  refine fun key => ⟨keyExpansion_getElem_key key, fun i h4 h44 j => ?_⟩
  have h1 : i - 1 < 44 := by omega
  rw [keyExpansion_getElem key h44 j.isLt, keyExpansion_getElem key (by omega) j.isLt,
    keyExpansion_getElem key h1 j.isLt, keyExpansion_getElem key h1 (Nat.mod_lt _ (by decide)),
    scheduleQuad_eq_nextQuad key h4 h44]
  exact nextQuad_getElem i _ _ j

/-! ### KEYEXP -/

/-- Settles O31: KEYEXP retires the state that `setSchedule` makes with the expansion of KEY. -/
theorem keyexpWritesTheScheduleOfKey : Obligations.KeyexpWritesTheScheduleOfKey :=
  ⟨onlyWordIs_encode (i := .keyexp) rfl fun _ _ => rfl, fun s => retire_eq (setSchedule (keyExpansion s.key) s)⟩

end Sys2Proof.Machine
end

section
/-! PROOFS. The statements on the block cipher, ENCB and DECB (44_cipher.md). A round and its inverse each begin with a substitution of bytes and rows. So what cancels is not a round alone but a round followed by the substitution of the next, and this is carried through the middle rounds; nothing is asked of the schedule. -/

namespace Sys2Proof.Machine

/-! ### Cipher and InvCipher cancel -/

/-- If `g` after `p` undoes each step of `f`, up to `p`, then the steps of `g` in reverse order undo the whole fold. -/
theorem foldl_reverse_foldl_cancel {α β : Type} {f g : α → β → α} {p : α → α} (h : ∀ a b, g (p (f a b)) b = p a)
    (l : List β) (a : α) : l.reverse.foldl g (p (l.foldl f a)) = p a := by
  induction l generalizing a with
  | nil => rfl
  | cons b l ih =>
    calc (b :: l).reverse.foldl g (p ((b :: l).foldl f a))
      _ = g (l.reverse.foldl g (p (l.foldl f (f a b)))) b := by simp
      _ = g (p (f a b)) b := by rw [ih]
      _ = p a := h a b

/-- The substitutions that begin every round, bytes first (R115). -/
def substitute (s : Block) : Block := shiftRows (subBytes s)

/-- The substitutions that begin every inverse round, rows first (R116). -/
def invSubstitute (s : Block) : Block := invSubBytes (invShiftRows s)

theorem invSubstitute_substitute (s : Block) : invSubstitute (substitute s) = s := by
  rw [invSubstitute, substitute, invShiftRows_shiftRows, invSubBytes_subBytes]

theorem substitute_invSubstitute (s : Block) : substitute (invSubstitute s) = s := by
  rw [substitute, invSubstitute, subBytes_invSubBytes, shiftRows_invShiftRows]

section Rounds

variable (rk : Schedule) (s : Block) (r : RoundIndex)

theorem cipherRound_eq : cipherRound rk s r = addRoundKey (mixColumns (substitute s)) rk r := rfl

theorem invCipherRound_eq : invCipherRound rk s r = invMixColumns (addRoundKey (invSubstitute s) rk r) := rfl

theorem invCipherRound_substitute_cipherRound :
    invCipherRound rk (substitute (cipherRound rk s r)) r = substitute s := by
  rw [invCipherRound_eq, invSubstitute_substitute, cipherRound_eq, addRoundKey_addRoundKey, invMixColumns_mixColumns]

theorem cipherRound_invSubstitute_invCipherRound :
    cipherRound rk (invSubstitute (invCipherRound rk s r)) r = invSubstitute s := by
  rw [cipherRound_eq, substitute_invSubstitute, invCipherRound_eq, mixColumns_invMixColumns, addRoundKey_addRoundKey]

end Rounds

theorem cipher_eq (b : Block) (rk : Schedule) : cipher b rk =
    addRoundKey (substitute (middleRounds.foldl (cipherRound rk) (addRoundKey b rk 0))) rk 10 := rfl

theorem invCipher_eq (b : Block) (rk : Schedule) : invCipher b rk =
    addRoundKey (invSubstitute (middleRounds.reverse.foldl (invCipherRound rk) (addRoundKey b rk 10))) rk 0 := rfl

theorem invCipher_cipher (b : Block) (rk : Schedule) : invCipher (cipher b rk) rk = b := by
  rw [invCipher_eq, cipher_eq, addRoundKey_addRoundKey,
    foldl_reverse_foldl_cancel (invCipherRound_substitute_cipherRound rk), invSubstitute_substitute,
    addRoundKey_addRoundKey]

theorem cipher_invCipher (b : Block) (rk : Schedule) : cipher (invCipher b rk) rk = b := by
  have hrounds := foldl_reverse_foldl_cancel (cipherRound_invSubstitute_invCipherRound rk) middleRounds.reverse
  rw [List.reverse_reverse] at hrounds
  rw [cipher_eq, invCipher_eq, addRoundKey_addRoundKey, hrounds, substitute_invSubstitute, addRoundKey_addRoundKey]

/-- Settles O33: the two ciphers cancel under any schedule, so under that of a key. -/
theorem cipherAndInverseCancel : Obligations.CipherAndInverseCancel := fun key x =>
  ⟨invCipher_cipher x (keyExpansion key), cipher_invCipher x (keyExpansion key)⟩

/-! ### The rounds written out, and the known answer -/

/-- Settles O32: the fold over the list of middle rounds, and over its reverse, unrolled. -/
theorem cipherIsTheTenRounds : Obligations.CipherIsTheTenRounds := fun _ _ => ⟨rfl, rfl⟩

/-- Settles O34: the forward cipher is run on the vector; that InvCipher maps it back then follows from O33. -/
theorem knownAnswerVector : Obligations.KnownAnswerVector := by
  unfold Obligations.KnownAnswerVector
  intro key plain coded
  have hcoded : cipher plain (keyExpansion key) = coded := by decide +kernel
  exact ⟨hcoded, by rw [← hcoded, invCipher_cipher]⟩

/-! ### ENCB and DECB -/

/-- Settles O35: the words are those of the encoding, and the check of KEY_VALID decides between the two outcomes. -/
theorem blockCommandsCipherBlk : Obligations.BlockCommandsCipherBlk := by
  refine ⟨onlyWordIs_encode (i := .encb) rfl fun _ _ => rfl, onlyWordIs_encode (i := .decb) rfl fun _ _ => rfl,
    fun s => ⟨fun hk => ?_, fun hk => ?_⟩⟩
  · simp only [exec, execEncb, execDecb, keyError_valid hk]
    exact ⟨retire_eq _, retire_eq _⟩
  · simp only [exec, execEncb, execDecb, keyError_invalid hk]
    exact ⟨raiseError_eq _ _, raiseError_eq _ _⟩

end Sys2Proof.Machine
end

section
/-! PROOFS. The statements on CBCENC and CBCDEC (45_cbc.md). The loops are stated over a run of blocks that begins anywhere, with one notion, `chainValue`, for what is chained into a block: encryption chains the new blocks, decryption the old ones. The round trip then needs no loop: the two commands name the same chained value, and the two XORs with it cancel. -/

namespace Sys2Proof.Machine

/-! ### The value chained into a block -/

/-- The value chained into block `b` of the blocks `f`, where the chain begins at block `i` with `cv` (R122, R123). -/
def chainValue (f : Nat → Block) (i : Nat) (cv : Block) (b : Nat) : Block := if b = i then cv else f (b - 1)

@[simp] theorem chainValue_self (f : Nat → Block) (i : Nat) (cv : Block) : chainValue f i cv i = cv := if_pos rfl

theorem chainValue_of_lt (f : Nat → Block) (cv : Block) {i b : Nat} (h : i < b) : chainValue f i cv b = f (b - 1) :=
  if_neg (Nat.ne_of_gt h)

/-- Past block `i` the chain from `i` is the chain from `i + 1` that begins with block `i`. -/
theorem chainValue_succ {f g : Nat → Block} {i b : Nat} (cv : Block) (hfg : ∀ k, i < k → g k = f k) (hb : i < b) :
    chainValue g (i + 1) (f i) b = chainValue f i cv b := by
  rw [chainValue_of_lt f cv hb]
  rcases Nat.eq_or_lt_of_le (Nat.succ_le_of_lt hb) with rfl | hlt
  · exact chainValue_self g (i + 1) (f i)
  · rw [chainValue_of_lt g _ hlt, hfg _ (by omega)]

section Loops

variable {size n i : Nat} (rk : Schedule) (m : Memory) (cv : Block)

/-- A block stays as written when no later write touches its bytes. -/
theorem readBlock_of_writeBlock_kept {m' : Memory} {v : Block} (hs : 16 * i + 16 ≤ size)
    (h : ∀ j, j < 16 * (i + 1) → m'.read size j = (m.writeBlock size i v).read size j) :
    m'.readBlock size i = v := by
  refine Eq.trans (Vector.ext fun j hj => ?_) (readBlock_writeBlock_same m size i v hs)
  rw [readBlock_getElem, readBlock_getElem, h _ (by omega)]

/-! ### The loop of CbcEncrypt -/

theorem cbcEncryptLoop_succ : cbcEncryptLoop size rk (n + 1) i m cv =
    cbcEncryptLoop size rk n (i + 1) (m.writeBlock size i (cipher (xorBlock (m.readBlock size i) cv) rk))
      (cipher (xorBlock (m.readBlock size i) cv) rk) := rfl

/-- The first block the loop writes stays as written. -/
theorem cbcEncryptLoop_readBlock_first (hs : 16 * i + 16 ≤ size) :
    (cbcEncryptLoop size rk (n + 1) i m cv).1.readBlock size i = cipher (xorBlock (m.readBlock size i) cv) rk :=
  readBlock_of_writeBlock_kept m hs fun j hj => cbcEncryptLoop_outside size rk n (i + 1) _ _ j (.inl hj)

/-- The loop hands on the last new block. -/
theorem cbcEncryptLoop_snd (hs : 16 * (i + n) ≤ size) : (cbcEncryptLoop size rk n i m cv).2 =
    chainValue ((cbcEncryptLoop size rk n i m cv).1.readBlock size) i cv (i + n) := by
  induction n generalizing i m cv with
  | zero => exact (chainValue_self _ i cv).symm
  | succ n ih =>
    rw [← chainValue_succ cv (fun _ _ => rfl) (by omega), cbcEncryptLoop_readBlock_first rk m cv (by omega),
      cbcEncryptLoop_succ, ih _ _ (by omega), Nat.add_right_comm, Nat.add_assoc]

/-- R122 said of every block: its cipher is chained to the new block before it. -/
theorem cbcEncryptLoop_readBlock (hs : 16 * (i + n) ≤ size) {b : Nat} (hi : i ≤ b) (hb : b < i + n) :
    (cbcEncryptLoop size rk n i m cv).1.readBlock size b = cipher (xorBlock (m.readBlock size b)
      (chainValue ((cbcEncryptLoop size rk n i m cv).1.readBlock size) i cv b)) rk := by
  induction n generalizing i m cv with
  | zero => omega
  | succ n ih =>
    have hfirst := cbcEncryptLoop_readBlock_first (n := n) rk m cv (show 16 * i + 16 ≤ size by omega)
    rcases Nat.eq_or_lt_of_le hi with rfl | hlt
    · rw [hfirst, chainValue_self]
    · rw [← chainValue_succ cv (fun _ _ => rfl) hlt, hfirst, cbcEncryptLoop_succ, ih _ _ (by omega) hlt (by omega),
        readBlock_writeBlock_other _ _ _ hlt.ne']

/-! ### The loop of CbcDecrypt -/

theorem cbcDecryptLoop_succ : cbcDecryptLoop size rk (n + 1) i m cv =
    cbcDecryptLoop size rk n (i + 1) (m.writeBlock size i (xorBlock (invCipher (m.readBlock size i) rk) cv))
      (m.readBlock size i) := rfl

/-- A write to block `i` leaves the chain of old blocks past it as it was: block `i` was read before. -/
theorem chainValue_writeBlock (v : Block) {b : Nat} (hb : i < b) :
    chainValue ((m.writeBlock size i v).readBlock size) (i + 1) (m.readBlock size i) b =
      chainValue (m.readBlock size) i cv b :=
  chainValue_succ cv (fun _ hk => readBlock_writeBlock_other m size v hk.ne') hb

/-- The loop hands on the last old block. -/
theorem cbcDecryptLoop_snd :
    (cbcDecryptLoop size rk n i m cv).2 = chainValue (m.readBlock size) i cv (i + n) := by
  induction n generalizing i m cv with
  | zero => exact (chainValue_self _ i cv).symm
  | succ n ih =>
    rw [cbcDecryptLoop_succ, ih, chainValue_writeBlock m cv _ (by omega), Nat.add_right_comm, Nat.add_assoc]

/-- R123 said of every block: its inverse cipher is unchained from the old block before it. -/
theorem cbcDecryptLoop_readBlock (hs : 16 * (i + n) ≤ size) {b : Nat} (hi : i ≤ b) (hb : b < i + n) :
    (cbcDecryptLoop size rk n i m cv).1.readBlock size b =
      xorBlock (invCipher (m.readBlock size b) rk) (chainValue (m.readBlock size) i cv b) := by
  induction n generalizing i m cv with
  | zero => omega
  | succ n ih =>
    rw [cbcDecryptLoop_succ]
    rcases Nat.eq_or_lt_of_le hi with rfl | hlt
    · rw [chainValue_self]
      exact readBlock_of_writeBlock_kept m (by omega) fun j hj =>
        cbcDecryptLoop_outside size rk n (i + 1) _ _ j (.inl hj)
    · rw [ih _ _ (by omega) hlt (by omega), chainValue_writeBlock m cv _ hlt,
        readBlock_writeBlock_other _ _ _ hlt.ne']

end Loops

/-! ### The checks and the two commands -/

/-- LEN is valid for the CBC commands (R121). -/
abbrev lenValid (s : State) : Prop :=
  0 < s.len.toNat ∧ s.len.toNat % 16 = 0 ∧ s.len.toNat ≤ s.cfg.bufSize

section Commands

variable {s : State}

theorem cbcError_noKey (hk : s.keyValid = false) : cbcError s = some errKeyNotExpanded := by
  rw [cbcError, keyError_invalid hk]

theorem cbcError_badLength (hk : s.keyValid = true) (hl : ¬lenValid s) : cbcError s = some errBufferLength := by
  rw [cbcError, keyError_valid hk]
  exact if_neg fun h => hl ((cbcLengthValid_iff _ _).mp h)

theorem cbcError_none (hk : s.keyValid = true) (hl : lenValid s) : cbcError s = none := by
  rw [cbcError, keyError_valid hk]
  exact if_pos ((cbcLengthValid_iff _ _).mpr hl)

theorem exec_cbcenc_error {c : ErrCode} (h : cbcError s = some c) : exec .cbcenc s = .next (completedWith c s) := by
  rw [exec, execCbcenc, h]
  rfl

theorem exec_cbcdec_error (u : Bool) {c : ErrCode} (h : cbcError s = some c) :
    exec (.cbcdec u) s = .next (completedWith c s) := by
  rw [exec, execCbcdec, h]
  rfl

/-- What CBCENC writes (R126): the loop's BUF, and IV is its last block. -/
theorem exec_cbcenc_valid (hk : s.keyValid = true) (hl : lenValid s) {m : Memory}
    (hm : (cbcEncryptLoop s.cfg.bufSize s.rk (s.len.toNat / 16) 0 s.mem s.iv).1 = m) :
    exec .cbcenc s = .next (completedWith 0
      (setIv (m.readBlock s.cfg.bufSize (s.len.toNat / 16 - 1)) (setMem m s))) := by
  subst hm
  have hlast := cbcEncryptLoop_snd s.rk s.mem s.iv (show 16 * (0 + s.len.toNat / 16) ≤ s.cfg.bufSize by omega)
  rw [chainValue_of_lt _ _ (by omega), Nat.zero_add] at hlast
  rw [exec, execCbcenc, cbcError_none hk hl, ← hlast]
  rfl

/-- What CBCDEC writes (R127): the loop's BUF, and with U = 1 IV is the last block of the old BUF. -/
theorem exec_cbcdec_valid (u : Bool) (hk : s.keyValid = true) (hl : lenValid s) :
    exec (.cbcdec u) s = .next (completedWith 0
      (setIv (if u = true then bufBlock s (s.len.toNat / 16 - 1) else s.iv)
        (setMem (cbcDecryptLoop s.cfg.bufSize s.rk (s.len.toNat / 16) 0 s.mem s.iv).1 s))) := by
  have hlast : (cbcDecryptLoop s.cfg.bufSize s.rk (s.len.toNat / 16) 0 s.mem s.iv).2 =
      bufBlock s (s.len.toNat / 16 - 1) := by
    rw [cbcDecryptLoop_snd, chainValue_of_lt _ _ (by omega), Nat.zero_add]
    rfl
  rw [exec, execCbcdec, cbcError_none hk hl, ← hlast]
  cases u <;> rfl

end Commands

/-- Settles O36: the loop over all LEN / 16 blocks, from block 0 and IV. -/
theorem cbcencChainsEveryBlock : Obligations.CbcencChainsEveryBlock := by
  refine ⟨onlyWordIs_encode (i := .cbcenc) rfl fun _ _ => rfl, fun s => ⟨fun hk hl => ?_,
    fun hk hl => exec_cbcenc_error (cbcError_badLength hk hl), fun hk => exec_cbcenc_error (cbcError_noKey hk)⟩⟩
  have hs : 16 * (0 + s.len.toNat / 16) ≤ s.cfg.bufSize := by omega
  refine ⟨_, exec_cbcenc_valid hk hl rfl, rfl, fun b hb => ?_, fun j hj => ?_⟩
  · exact cbcEncryptLoop_readBlock s.rk s.mem s.iv hs b.zero_le (by omega)
  · exact cbcEncryptLoop_outside _ _ _ _ _ _ _ (by omega)

/-- The words of the two commands with the OP of CBCDEC (30_encoding.md R72). -/
theorem encode_cbcdec (u : Bool) : encode (.cbcdec u) = if u = true then 0x00001005 else 0x00000005 := by
  revert u; decide

/-- A legal word with the OP of CBCDEC is a word of CBCDEC. -/
theorem eq_encode_of_legal_cbcdecOp {w : Word} {i : Instr} (hop : opField w = 0x05) (hd : decode w = .legal i) :
    ∃ u, w = encode (.cbcdec u) := by
  obtain rfl : encode i = w := encode_of_decode hd
  have hi : i = .cbcdec (uField (encode i)) :=
    Option.some.inj ((instrOfOp_encode i).symm.trans (by rw [hop]; rfl))
  exact ⟨_, congrArg encode hi⟩

/-- Settles O37: the loop over all LEN / 16 blocks, from block 0 and IV; U decides whether IV takes what it hands on. -/
theorem cbcdecUnchainsEveryBlock : Obligations.CbcdecUnchainsEveryBlock := by
  refine ⟨fun u => ?_, fun w hop h0 h1 => ?_, fun s u => ⟨fun hk hl => ?_,
    fun hk hl => exec_cbcdec_error u (cbcError_badLength hk hl),
    fun hk => exec_cbcdec_error u (cbcError_noKey hk)⟩⟩
  · rw [← encode_cbcdec]
    exact (decode_encode_iff _).mpr rfl
  · cases hd : decode w with
    | illegal why => exact ⟨why, rfl⟩
    | legal i =>
      obtain ⟨u, hu⟩ := eq_encode_of_legal_cbcdecOp hop hd
      rw [encode_cbcdec] at hu
      cases u
      · exact absurd hu h0
      · exact absurd hu h1
  · have hs : 16 * (0 + s.len.toNat / 16) ≤ s.cfg.bufSize := by omega
    refine ⟨_, exec_cbcdec_valid u hk hl, rfl, fun b hb => ?_, fun j hj => ?_⟩
    · exact cbcDecryptLoop_readBlock s.rk s.mem s.iv hs b.zero_le (by omega)
    · exact cbcDecryptLoop_outside _ _ _ _ _ _ _ (by omega)

/-! ### The round trip -/

theorem xorBlock_xorBlock_cancel (a b : Block) : xorBlock (xorBlock a b) b = a := by
  refine Vector.ext fun j hj => ?_
  simp [xorBlock]

theorem bufByte_eq_bufBlock (s : State) (j : Nat) : bufByte s j = (bufBlock s (j / 16))[j % 16] := by
  rw [bufBlock, readBlock_getElem, Nat.div_add_mod]
  rfl

/-- Settles O38: by the chains of O36 and O37 each block is XORed twice with one value, between Cipher and InvCipher. -/
theorem cbcRoundTripRestoresTheBuffer : Obligations.CbcRoundTripRestoresTheBuffer := by
  intro s u hk hl
  obtain ⟨t, ht, htEq, htBlock, htRest⟩ := (cbcencChainsEveryBlock.2 s).1 hk hl
  have hkey : t.keyValid = s.keyValid := (congrArg State.keyValid htEq :)
  have hlen : t.len = s.len := (congrArg State.len htEq :)
  have hcfg : t.cfg = s.cfg := (congrArg State.cfg htEq :)
  have hrk : t.rk = s.rk := (congrArg State.rk htEq :)
  obtain ⟨r, hr, hrEq, hrBlock, hrRest⟩ := (cbcdecUnchainsEveryBlock.2.2 { t with iv := s.iv } u).1
    (hkey.trans hk) (by simpa only [hlen, hcfg] using hl)
  simp only [hlen, hrk] at hrBlock hrRest
  refine ⟨t, r, ht, hr, congrArg State.err hrEq, fun j => ?_⟩
  rcases Nat.lt_or_ge j s.len.toNat with hj | hj
  · have hb : j / 16 < s.len.toNat / 16 := by omega
    have hblock : bufBlock r (j / 16) = bufBlock s (j / 16) :=
      calc bufBlock r (j / 16)
        _ = xorBlock (invCipher (bufBlock t (j / 16)) s.rk)
            (if j / 16 = 0 then s.iv else bufBlock t (j / 16 - 1)) := hrBlock _ hb
        _ = bufBlock s (j / 16) := by rw [htBlock _ hb, invCipher_cipher, xorBlock_xorBlock_cancel]
    rw [bufByte_eq_bufBlock, bufByte_eq_bufBlock, hblock]
  · exact (hrRest j hj).trans (htRest j hj)

end Sys2Proof.Machine
end

section
/-! PROOFS. The statements on PAD and UNPAD (46_pkcs7.md). Each of the two writes one value to a run of bytes of BUF and its own LEN; what that leaves in BUF is said once. The round trip follows from the statements on the two commands: the bytes that PAD wrote are the valid padding that UNPAD asks for. -/

namespace Sys2Proof.Machine

/-- What a run of `n` equal bytes, written inside BUF, leaves there. -/
theorem read_writeBytes_replicate (m : Memory) {size k n : Nat} (v : Byte) (h : k + n ≤ size) (j : Nat) :
    (m.writeBytes size k (List.replicate n v)).read size j = if k ≤ j ∧ j < k + n then v else m.read size j := by
  split
  case isTrue hin =>
    obtain ⟨i, rfl⟩ := Nat.exists_eq_add_of_le hin.1
    rw [read_writeBytes_inside _ _ _ _ _ (by rw [List.length_replicate]; omega) (by omega), List.getElem_replicate]
  case isFalse hout =>
    exact read_writeBytes_outside _ _ _ _ _ (by rw [List.length_replicate]; omega)

section Commands

variable {s : State}

/-! ### PAD -/

theorem exec_pad_noRoom (h : s.cfg.bufSize < s.len.toNat + padLen s.len.toNat) :
    exec .pad s = .next (completedWith 6 s) := if_pos h

theorem exec_pad_room (h : s.len.toNat + padLen s.len.toNat ≤ s.cfg.bufSize) :
    exec .pad s = .next (completedWith 0 (setLen (s.len.toNat + padLen s.len.toNat)
      (setMem (s.mem.writeBytes s.cfg.bufSize s.len.toNat
        (List.replicate (padLen s.len.toNat) (BitVec.ofNat 8 (padLen s.len.toNat)))) s))) :=
  if_neg (Nat.not_lt.mpr h)

/-! ### UNPAD -/

theorem exec_unpad_tooLong (h : s.cfg.bufSize < s.len.toNat) : exec .unpad s = .next (completedWith 3 s) := by
  rcases execUnpad_cases s with ⟨_, he⟩ | ⟨hle, _⟩ | ⟨hle, _⟩
  · exact he
  · omega
  · omega

theorem exec_unpad_badPadding (h : s.len.toNat ≤ s.cfg.bufSize) (hb : badPadding s) :
    exec .unpad s = .next (completedWith 4 s) := by
  rcases execUnpad_cases s with ⟨hlt, _⟩ | ⟨_, _, he⟩ | ⟨_, hv, _⟩
  · omega
  · exact he
  · exact absurd hb hv

theorem exec_unpad_valid (h : s.len.toNat ≤ s.cfg.bufSize) (hv : ¬badPadding s) {p : Nat}
    (hp : (bufByte s (s.len.toNat - 1)).toNat = p) :
    exec .unpad s = .next (completedWith 0 (setLen (s.len.toNat - p)
      (setMem (s.mem.writeBytes s.cfg.bufSize (s.len.toNat - p) (List.replicate p 0)) s))) := by
  subst hp
  rcases execUnpad_cases s with ⟨hlt, _⟩ | ⟨_, hb, _⟩ | ⟨_, _, he⟩
  · omega
  · exact absurd hb hv
  · exact he

/-- Valid padding is no longer than the data (60_exceptions.md R145). -/
theorem lastByte_le_len (hv : ¬badPadding s) : (bufByte s (s.len.toNat - 1)).toNat ≤ s.len.toNat :=
  Nat.not_lt.mp fun hlt => hv (.inr (.inr (.inr (.inl hlt))))

/-- BUF[0 .. LEN) that ends in p bytes of value p, p from 1 to 16, has valid padding (R145). -/
theorem not_badPadding_of_tail {p : Nat} (h0 : 0 < p) (h16 : p ≤ 16) (hl : p ≤ s.len.toNat)
    (htail : ∀ j, s.len.toNat - p ≤ j → j < s.len.toNat → (bufByte s j).toNat = p) : ¬badPadding s := by
  have hlast := htail (s.len.toNat - 1) (by omega) (by omega)
  unfold badPadding
  rw [hlast]
  rintro (hb | hb | hb | hb | ⟨j, hj1, hj2, hb⟩)
  · omega
  · omega
  · omega
  · omega
  · exact hb (htail j hj1 hj2)

end Commands

/-- Settles O39: the written run begins at LEN and ends inside BUF, and LEN + p fits the register. -/
theorem padAppendsPadding : Obligations.PadAppendsPadding := by
  refine ⟨onlyWordIs_encode (i := .pad) rfl fun _ _ => rfl, fun s hc => ⟨padLen_overflow_iff hc _, exec_pad_noRoom,
    fun hroom => ⟨_, exec_pad_room hroom, rfl, ?_, read_writeBytes_replicate _ _ hroom⟩⟩⟩
  have hsize := hc.2.1
  exact Nat.mod_eq_of_lt (by unfold padLen; omega)

/-- Settles O40: UNPAD has the three ways out that the clauses name; the run it zeroes ends at LEN, inside BUF. -/
theorem unpadStripsValidPadding : Obligations.UnpadStripsValidPadding := by
  refine ⟨onlyWordIs_encode (i := .unpad) rfl fun _ _ => rfl, fun s => ⟨exec_unpad_tooLong, exec_unpad_badPadding,
    fun hle hv => ⟨_, exec_unpad_valid hle hv rfl, rfl, ?_, fun j => ?_⟩⟩⟩
  · exact Nat.mod_eq_of_lt (by omega)
  · have hp := Nat.sub_add_cancel (lastByte_le_len hv)
    have hread := read_writeBytes_replicate s.mem 0 (hp.trans_le hle) j
    rwa [hp] at hread

/-- Settles O41: PAD leaves valid padding of p bytes (O39), which UNPAD takes off again (O40). -/
theorem padThenUnpadRestoresTheLength : Obligations.PadThenUnpadRestoresTheLength := by
  refine ⟨fun s hc hroom => ?_, fun s _ hle hp => exec_unpad_badPadding hle (.inr (hp.imp_right .inl))⟩
  obtain ⟨t, ht, htEq, htLen, htByte⟩ := (padAppendsPadding.2 s hc).2.2 hroom
  have hcfg : t.cfg = s.cfg := (congrArg State.cfg htEq :)
  generalize hp : 16 - s.len.toNat % 16 = p at hroom htLen htByte
  have htail : ∀ j, t.len.toNat - p ≤ j → j < t.len.toNat → (bufByte t j).toNat = p := fun j h1 h2 => by
    rw [htByte, if_pos (by omega)]
    exact Nat.mod_eq_of_lt (by omega)
  have hlast : (bufByte t (t.len.toNat - 1)).toNat = p := htail _ (by omega) (by omega)
  obtain ⟨r, hr, hrEq, hrLen, hrByte⟩ := (unpadStripsValidPadding.2 t).2.2 (by rwa [hcfg, htLen])
    (not_badPadding_of_tail (by omega) (by omega) (by omega) htail)
  rw [hlast] at hrLen
  simp only [hlast] at hrByte
  refine ⟨t, r, ht, by omega, by omega, hr, congrArg State.err hrEq, BitVec.eq_of_toNat_eq (by omega), fun j hj => ?_⟩
  rw [hrByte, if_neg (by omega), htByte, if_neg (by omega)]

end Sys2Proof.Machine
end

section
/-! PROOFS. The statements on the issue and completion of a command (47_system.md). First the engine's turn and the agenda: the completion step does not read the turns still to come. A run over host accesses and then the engine's turn is therefore one completion step, of a state that differs only in what that step does not read. -/

namespace Sys2Proof.Machine

/-! ### The engine's turn -/

theorem step_of_engineIsNext {s : State} (hc : s.cfg.wf) (hn : engineIsNext s = true) :
    step s = engineTurn (dropTurn s) := by
  have hhead : ∀ t, s.agenda.head? = some t → t = .engine := fun t ht => by
    obtain ⟨rest, ha⟩ := List.head?_eq_some_iff.mp ht
    rw [engineIsNext, ha] at hn
    cases t with
    | engine => rfl
    | _ => cases hn
  rcases step_cases hc with ⟨_, hs⟩ | ⟨a, ha, _⟩ | ⟨hr, _⟩
  · exact hs
  · cases hhead _ ha
  · cases hhead _ hr

/-- Settles O5: the engine's turn is its completion step, which decodes PENDING. -/
theorem stepRunsTheDecodedCommand : Obligations.StepRunsTheDecodedCommand := by
  intro s w i hc hn hb hp hd
  rw [step_of_engineIsNext hc hn]
  exact engineTurn_legal (s := dropTurn s) hb hp hd

/-- Settles O18: OP = 0 means NOP whatever RND and U are, and NOP is its completion. -/
theorem nopOnlyCompletes : Obligations.NopOnlyCompletes :=
  ⟨onlyWordIs_encode (i := .nop) rfl fun _ _ => rfl, retire_eq⟩

/-- Settles O45: an idle engine takes the write, which is the issue. -/
theorem idleCmdWriteIssues : Obligations.IdleCmdWriteIssues := fun _ v hb =>
  idle_write hb v (by decide) (regAt_cmd _)

/-! ### The completion step does not read the agenda -/

/-- `s` with the turns `a` still to come. -/
def withAgenda (a : List Turn) (s : State) : State := { s with agenda := a }

theorem dropTurn_eq_withAgenda (s : State) : dropTurn s = withAgenda s.agenda.tail s := rfl

@[simp] theorem keyError_withAgenda (a : List Turn) (s : State) : keyError (withAgenda a s) = keyError s := rfl
@[simp] theorem cbcError_withAgenda (a : List Turn) (s : State) : cbcError (withAgenda a s) = cbcError s := rfl

/-- The outcome `x` with the turns `a` still to come in its next state. -/
def outcomeWithAgenda (a : List Turn) : Host.Outcome State Fault Refusal → Host.Outcome State Fault Refusal
  | .next t => .next (withAgenda a t)
  | x => x

/-- No command reads or writes the agenda. -/
theorem exec_withAgenda (i : Instr) (a : List Turn) (s : State) :
    exec i (withAgenda a s) = outcomeWithAgenda a (exec i s) := by
  cases i with
  | encb | decb =>
    simp only [exec, execEncb, execDecb, keyError_withAgenda]
    cases keyError s <;> rfl
  | addrk rnd =>
    simp only [exec, execAddrk, keyError_withAgenda]
    split
    · cases keyError s <;> rfl
    · rfl
  | cbcenc =>
    simp only [exec, execCbcenc, cbcError_withAgenda]
    cases cbcError s <;> rfl
  | cbcdec u =>
    simp only [exec, execCbcdec, cbcError_withAgenda]
    cases cbcError s with
    | some c => rfl
    | none => cases u <;> rfl
  | pad | unpad =>
    simp only [exec, execPad, execUnpad, apply_ite (outcomeWithAgenda a)]
    rfl
  | _ => rfl

section Completion

variable {s : State} {w : Word} (hb : s.busy = true) (hp : s.pending = some w)
include hb hp

theorem engineTurn_withAgenda (a : List Turn) :
    engineTurn (withAgenda a s) = outcomeWithAgenda a (engineTurn s) := by
  have hb' : (withAgenda a s).busy = true := hb
  have hp' : (withAgenda a s).pending = some w := hp
  cases hd : decode w with
  | legal i => rw [engineTurn_legal hb hp hd, engineTurn_legal hb' hp' hd, exec_withAgenda]
  | illegal why =>
    rw [engineTurn_illegal hb hp hd, engineTurn_illegal hb' hp' hd]
    rfl

/-- The completion step of a pending word completes (47_system.md R135). -/
theorem engineTurn_completes :
    ∃ r, engineTurn s = .next r ∧ r.busy = false ∧ r.done = true ∧ r.pending = none := by
  cases hd : decode w with
  | legal i =>
    obtain ⟨r, hr, he⟩ := exec_effect i s
    exact ⟨r, (engineTurn_legal hb hp hd).trans hr, he.completed⟩
  | illegal why => exact ⟨_, engineTurn_illegal hb hp hd, rfl, rfl, rfl⟩

end Completion

/-! ### A run over host accesses -/

theorem step_of_host {s : State} {a : Access} {rest : List Turn} (hc : s.cfg.wf) (ha : s.agenda = .host a :: rest) :
    step s = .next (hostAccess a (dropTurn s)) := by
  simp only [step, if_pos hc, ha, takeTurn, dropTurn, List.tail_cons]

theorem run_succ_of_step {s t : State} (n : Nat) (h : step s = .next t) :
    Sys2Proof.core.run (n + 1) s = Sys2Proof.core.run n t := by
  have hstep : Sys2Proof.core.step s = .next t := h
  simp only [Host.Core.run, hstep]

theorem run_one (s : State) : Sys2Proof.core.run 1 s = step s := by
  have hstep : Sys2Proof.core.step s = step s := rfl
  simp only [Host.Core.run, hstep]
  cases step s <;> rfl

/-- One step for each access and one more is a completion step, of a state in which only the host's fields and the
agenda differ (20_memory.md R58). -/
theorem run_hostAccesses (as : List Access) {s : State} (hc : s.cfg.wf) (hb : s.busy = true)
    (ha : s.agenda = as.map .host) :
    ∃ h, Sys2Proof.core.run (as.length + 1) s = engineTurn (withHostFields h (withAgenda [] s)) := by
  induction as generalizing s with
  | nil =>
    have hs : step s = engineTurn (dropTurn s) := step_of_engineIsNext hc (by rw [engineIsNext, ha]; rfl)
    rw [dropTurn_eq_withAgenda, ha] at hs
    exact ⟨s, (run_one s).trans hs⟩
  | cons a as ih =>
    obtain ⟨u, hu⟩ : ∃ u, hostAccess a (dropTurn s) = withHostFields u (dropTurn s) :=
      ⟨_, hostAccess_eq_withHostFields a hb⟩
    have hrun := run_succ_of_step (as.length + 1) (step_of_host hc ha)
    rw [hu] at hrun
    obtain ⟨h, hend⟩ := ih (s := withHostFields u (dropTurn s)) hc hb (congrArg List.tail ha)
    exact ⟨h, hrun.trans hend⟩

/-- Settles O58: the run ends in a completion step, which reads neither the host's fields nor the agenda. -/
theorem pendingCommandCompletes : Obligations.PendingCommandCompletes := by
  intro s as hinv hb ha
  obtain ⟨_, _, hsome⟩ := hinv.busyState hb
  obtain ⟨w, hp⟩ := Option.isSome_iff_exists.mp hsome
  obtain ⟨r, hr, hbusy, hdone, hpending⟩ := engineTurn_completes hb hp
  obtain ⟨h, hrun⟩ := run_hostAccesses as hinv.config hb ha
  obtain ⟨t, ht, hth⟩ := engineTurn_withHostFields (s := withAgenda [] s) hb hp h
  rw [engineTurn_withAgenda hb hp, hr] at ht
  cases ht
  exact ⟨_, r, hrun.trans hth, hr, hbusy, hdone, hpending, rfl, rfl, rfl, rfl, rfl, rfl, rfl⟩

end Sys2Proof.Machine
end

section
/-! PROOFS. The statements on the error codes (60_exceptions.md). Each command either is refused with a code that names its cause, or retires with code 0; which of the two is said once, and the order of priority is read off. -/

namespace Sys2Proof.Machine

/-! ### Completions -/

/-- A command that ends with a nonzero code has changed nothing else (R149). -/
theorem Effect.eq_of_err_ne_zero {i : Instr} {s t : State} (h : Effect i s t) (hne : t.err ≠ 0) :
    t = completedWith t.err s := by
  cases h with
  | error c _ => rfl
  | _ => exact absurd rfl hne

/-- Settles O14: the two facts on the effects of a command. -/
theorem everyCommandCompletesAndErrorsChangeNothing : Obligations.EveryCommandCompletesAndErrorsChangeNothing := by
  intro i s
  obtain ⟨t, ht, he⟩ := exec_effect i s
  obtain ⟨hbusy, hdone, hpending⟩ := he.completed
  exact ⟨t, ht, hbusy, hdone, hpending, he.eq_of_err_ne_zero⟩

/-! ### Illegal words -/

theorem illegal_of_not_legal {w : Word} (h : ∀ i, decode w ≠ .legal i) : ∃ why, decode w = .illegal why := by
  cases hd : decode w with
  | legal i => exact absurd hd (h i)
  | illegal why => exact ⟨why, rfl⟩

/-- The engine's turn on a word that Decode refuses (R148). -/
theorem engineTurn_of_not_legal {s : State} {w : Word} (hb : s.busy = true) (hp : s.pending = some w)
    (h : ∀ i, decode w ≠ .legal i) : engineTurn s = .next (completedWith 7 s) := by
  obtain ⟨_, hd⟩ := illegal_of_not_legal h
  exact engineTurn_illegal hb hp hd

/-- Settles O8: the step is the engine's turn, which finds the word illegal. -/
theorem illegalWordCompletesWithCode7 : Obligations.IllegalWordCompletesWithCode7 := by
  intro s w hc hn hb hp h
  rw [step_of_engineIsNext hc hn]
  exact engineTurn_of_not_legal (s := dropTurn s) hb hp h

/-! ### Legal commands -/

section Commands

variable {i : Instr} {s : State}

/-- Without a schedule a command that needs one is refused (R146). -/
theorem exec_noKey (hi : i.wf = true) (hn : needsKey i = true) (hk : s.keyValid = false) :
    exec i s = .next (completedWith 5 s) := by
  cases i with
  | encb => exact ((blockCommandsCipherBlk.2.2 s).2 hk).1
  | decb => exact ((blockCommandsCipherBlk.2.2 s).2 hk).2
  | cbcenc => exact exec_cbcenc_error (cbcError_noKey hk)
  | cbcdec u => exact exec_cbcdec_error u (cbcError_noKey hk)
  | addrk r => exact exec_addrk_noKey s (of_decide_eq_true hi) hk
  | _ => cases hn

/-- With a schedule a CBC command refuses a bad length (R144). -/
theorem exec_cbc_badLength (hi : isCbc i = true) (hk : s.keyValid = true) (hl : ¬lenValid s) :
    exec i s = .next (completedWith 3 s) := by
  cases i with
  | cbcenc => exact exec_cbcenc_error (cbcError_badLength hk hl)
  | cbcdec u => exact exec_cbcdec_error u (cbcError_badLength hk hl)
  | _ => cases hi

/-- A command to which no error condition applies retires with code 0 (R149, R151). -/
theorem exec_noError (hi : i.wf = true) (hk : needsKey i = true → s.keyValid = true)
    (hcbc : isCbc i = true → lenValid s)
    (hpad : i = .pad → s.len.toNat + padLen s.len.toNat ≤ s.cfg.bufSize)
    (hunpad : i = .unpad → s.len.toNat ≤ s.cfg.bufSize ∧ ¬badPadding s) :
    ∃ u, exec i s = .next (completedWith 0 u) := by
  cases i with
  | encb => exact ⟨_, ((blockCommandsCipherBlk.2.2 s).1 (hk rfl)).1⟩
  | decb => exact ⟨_, ((blockCommandsCipherBlk.2.2 s).1 (hk rfl)).2⟩
  | cbcenc => exact ⟨_, exec_cbcenc_valid (hk rfl) (hcbc rfl) rfl⟩
  | cbcdec u => exact ⟨_, exec_cbcdec_valid u (hk rfl) (hcbc rfl)⟩
  | addrk r => exact ⟨_, exec_addrk s (of_decide_eq_true hi) (hk rfl)⟩
  | pad => exact ⟨_, exec_pad_room (hpad rfl)⟩
  | unpad =>
    obtain ⟨hle, hv⟩ := hunpad rfl
    exact ⟨_, exec_unpad_valid hle hv rfl⟩
  | _ => exact ⟨_, retire_eq _⟩

theorem err_of_exec {t u : State} {c : ErrCode} (ht : exec i s = .next t) (hu : exec i s = .next (completedWith c u)) :
    t.err = c := by
  cases ht.symm.trans hu
  rfl

end Commands

/-- Settles O17: each of the five commands needs the schedule. -/
theorem keyNotExpandedIsReported : Obligations.KeyNotExpandedIsReported := by
  intro i s hi hk h
  have hn : needsKey i = true := by rcases h with rfl | rfl | rfl | ⟨u, rfl⟩ | ⟨r, rfl⟩ <;> rfl
  exact exec_noKey hi hn hk

/-- Settles O16: each clause is one way out of the command, and the last is the one without an error. -/
theorem errorCodeFollowsThePriority : Obligations.ErrorCodeFollowsThePriority := by
  refine ⟨fun s w => engineTurn_of_not_legal, fun i s t hi hc ht => ?_⟩
  intro l size
  refine ⟨?_, ?_, ?_, ?_, ?_, ?_⟩
  · exact fun ⟨hn, hk⟩ => err_of_exec ht (exec_noKey hi hn hk)
  · exact fun ⟨hcbc, hk, hl⟩ => err_of_exec ht (exec_cbc_badLength hcbc hk hl)
  · rintro ⟨rfl, hlt⟩
    exact err_of_exec ht (exec_unpad_tooLong hlt)
  · rintro ⟨rfl, hle⟩
    exact err_of_exec ht (exec_pad_noRoom ((padLen_overflow_iff hc _).mpr hle))
  · rintro ⟨rfl, hle, hb⟩
    exact err_of_exec ht (exec_unpad_badPadding hle hb)
  · rintro ⟨hkey, hlen, hunpad, hpad⟩
    have hkeyed : needsKey i = true → s.keyValid = true := fun hn => eq_true_of_ne_false fun hk => hkey ⟨hn, hk⟩
    have hvalid : isCbc i = true → lenValid s := fun hcbc => not_not.mp fun hl => hlen ⟨hcbc, hl⟩
    have hroom : i = .pad → s.len.toNat + padLen s.len.toNat ≤ s.cfg.bufSize := fun hi =>
      Nat.not_lt.mp fun hlt => hpad ⟨hi, (padLen_overflow_iff hc _).mp hlt⟩
    have hpadded : i = .unpad → s.len.toNat ≤ s.cfg.bufSize ∧ ¬badPadding s := fun hi =>
      ⟨Nat.not_lt.mp fun hlt => hunpad ⟨hi, .inl hlt⟩, fun hb => hunpad ⟨hi, .inr hb⟩⟩
    obtain ⟨_, hu⟩ := exec_noError hi hkeyed hvalid hroom hpadded
    exact err_of_exec ht hu

end Sys2Proof.Machine
end

section
/-! PROOFS. The statements on the turns of the agenda and on the reset (70_reset_and_hazards.md). A reset turn leaves `resetEngine` of the state it finds, whatever that state is. -/

namespace Sys2Proof.Machine

/-! ### The turns of the agenda -/

theorem dropTurn_of_agenda {s : State} {t : Turn} {rest : List Turn} (ha : s.agenda = t :: rest) :
    dropTurn s = { s with agenda := rest } := by
  rw [dropTurn, ha, List.tail_cons]

theorem step_of_reset {s : State} {rest : List Turn} (hc : s.cfg.wf) (ha : s.agenda = .reset :: rest) :
    step s = .next (resetEngine (dropTurn s)) := by
  rw [dropTurn_of_agenda ha]
  simp only [step, if_pos hc, ha, takeTurn]

/-- An idle engine performs no step (60_exceptions.md R162). -/
theorem engineTurn_idle {s : State} (hb : s.busy = false) : engineTurn s = .next s := by
  rw [engineTurn, hb, if_neg (by decide)]

/-- Settles O7: the three turns, and the test of BUF_SIZE before any of them. -/
theorem stepTakesTheNextTurn : Obligations.StepTakesTheNextTurn := by
  refine fun s => ⟨fun hc a rest ha => ?_, fun hc rest ha => ?_, fun hc hn hb => ?_, fun hc => if_neg hc⟩
  · rw [step_of_host hc ha, dropTurn_of_agenda ha]
  · rw [step_of_reset hc ha, dropTurn_of_agenda ha]
  · rw [step_of_engineIsNext hc hn]
    exact engineTurn_idle (s := dropTurn s) hb

/-- Settles O6: the placed word is pending and the engine's turn is next, so O5 says what the step does. -/
theorem stepRunsTheFetchedWord : Obligations.StepRunsTheFetchedWord := fun s nbits w i hc hd =>
  stepRunsTheDecodedCommand (s.withFetchWord nbits w) (wordOfTable nbits w) i hc rfl rfl rfl hd

/-! ### What a reset turn leaves -/

theorem statusWord_resetEngine (s : State) : statusWord (resetEngine s) = 0 := by
  simp [statusWord, flagWord]

/-- An idle engine answers a read of ID (10_state.md R18). -/
theorem idle_read_id {s : State} (hb : s.busy = false) :
    (hostAccess (memRead s.cfg 0x000) s).resp = some (.readData 0x41455331) := by
  rw [idle_read hb (by decide) (regAt_id _)]
  rfl

/-- Settles O54: each field of `resetEngine`; the engine is idle after it, so it answers a read of ID. -/
theorem resetTurnLeavesTheStatedValues : Obligations.ResetTurnLeavesTheStatedValues := by
  intro s rest hc ha
  refine ⟨_, step_of_reset hc ha, rfl, rfl, rfl, rfl, rfl, rfl, rfl, rfl, rfl, rfl, rfl, fun i => ?_, fun i => ?_, rfl,
    statusWord_resetEngine _, idle_read_id rfl⟩
  · simp
  · simp

/-- With no byte written since the reset, every byte of BUF is free (70_reset_and_hazards.md R164). -/
theorem bufByte_resetEngine {s : State} {i : Nat} (hi : i < s.cfg.bufSize) :
    bufByte (resetEngine s) i = Config.freeBufByte (resetEngine s).mem.draw i := if_pos hi

/-- Settles O55: a reset counts the draw up and empties the list of written bytes. -/
theorem resetTurnDrawsTheBufferAnew : Obligations.ResetTurnDrawsTheBufferAnew := by
  intro s rest hc ha
  refine ⟨_, step_of_reset hc ha, rfl, ?_, Nat.succ_ne_self _, fun i => bufByte_resetEngine (s := dropTurn s)⟩
  rw [dropTurn_of_agenda ha, resetEngine_agenda]

/-! ### The reset state -/

/-- Settles O11: the engine is idle without a schedule, and nothing is listed in BUF. -/
theorem resetMeetsTheInvariant : Obligations.ResetMeetsTheInvariant where
  config := by decide
  memory := empty_wf _ _
  busyState := fun hb => nomatch hb
  idleState := fun _ => rfl
  schedule := fun hk => nomatch hk
  error := errNone_produced

/-- Word 4 of the schedule of the zero key: SubWord of zero is 0x63636363, and the round constant is 1 (R166). -/
theorem scheduleWord_zeroKey_four : scheduleWord (keyExpansion (Vector.replicate 16 0)) 4 = 0x62636363 := by
  decide +kernel

/-- Settles O56: the two schedules differ in word 4. -/
theorem resetScheduleIsNotOfTheZeroKey : Obligations.ResetScheduleIsNotOfTheZeroKey := by
  refine ⟨rfl, scheduleWord_zeroKey_four, fun h => ?_, rfl⟩
  have hword : scheduleWord State.reset.rk 4 = 0x62636363 := by rw [h]; exact scheduleWord_zeroKey_four
  exact absurd hword (by decide)

end Sys2Proof.Machine
end
